-- ==== Sys2Proof/Word.lean ====
section
/-! DEFINITION. The word types of the HUB75 engine (00_scope.md R9, R10): every value is unsigned, bit 0 is the least
significant bit. -/

namespace Sys2Proof

/-- A command word, STATUS or RESP: 32 bits (R53). -/
abbrev Word := BitVec 32

/-- One frame-buffer channel or gamma ROM entry: 8 bits (R27, R29). -/
abbrev Byte := BitVec 8

/-- A line level: `true` is 1 (high), `false` is 0 (low) (R33). -/
abbrev Level := Bool

end Sys2Proof
end

