-- ==== Sys2Proof/Syntax.lean ====
section
/-! DEFINITION. The commands (one constructor per row of spec/opcode_table.json) and the assembler's source lines
(30_encoding.md R80). -/

namespace Sys2Proof

/-- A decoded command. Each operand has exactly the width its field has in the command word (R72 to R76), so every
value of this type is a command that some word spells. -/
inductive Instr where
  /-- INIT, format I (R73, R103): `bb` as encoded, 0..15. -/
  | init (bb : BitVec 4)
  /-- WRPIX, format P (R74, R104): panel row, panel column, RGB565 colour. -/
  | wrpix (y : BitVec 6) (x : BitVec 6) (color : BitVec 16)
  /-- CLEAR, format N (R72, R105). -/
  | clear
  /-- OUTPUT, format N (R72, R130). -/
  | output
  /-- GEOM, format N (R72, R107). -/
  | geom
  /-- RDCELL, format X (R75, R106): panel row, panel column. -/
  | rdcell (y : BitVec 6) (x : BitVec 6)
  deriving DecidableEq, Repr

/-- One pixel of a DRAW: column, row, 16-bit colour, as written (R80). -/
structure Pixel where
  x : Nat
  y : Nat
  color : Nat
  deriving DecidableEq, Repr

/-- One assembler line of R80, its operands the numbers as written: they may be too large for their fields, and then
the line spells no command. -/
inductive SourceLine where
  | init (bb : Nat)
  /-- `WRPIX x, y, color16`. -/
  | wrpix (p : Pixel)
  /-- `WRPIX x, y, cr, cg, cb`. -/
  | wrpixRgb (x y cr cg cb : Nat)
  | clear
  | output
  | geom
  | rdcell (x y : Nat)
  /-- The DRAW pseudo-instruction: it expands to one WRPIX per pixel, in the order written. -/
  | draw (pixels : List Pixel)
  deriving DecidableEq, Repr

end Sys2Proof
end

