-- ==== Sys2Proof/Decode.lean ====
section
/-! DEFINITION. The command encoding (30_encoding.md R70 to R79): field extraction, the decoder, total on every 32-bit word
and rejecting by name, then the encoder and the opcode map, written from the same tables. -/

namespace Sys2Proof

/-- Why a word is illegal (R78). -/
inductive Illegal where
  /-- Clause 1: its opcode is reserved, 0x0 or 0x7 to 0xF. -/
  | reservedOpcode
  /-- Clause 2: its opcode is assigned but a `zero` field of its format is not 0. -/
  | nonzeroField
  deriving DecidableEq, Repr

/-- What a word decodes to (R79): a command, or Illegal. -/
inductive Decoded where
  | command (i : Instr)
  | illegal (why : Illegal)
  deriving DecidableEq, Repr

/-- `op = CMD[31:28]`, as a number (R71). -/
def opField (w : Word) : Nat := (w.extractLsb' 28 4).toNat
/-- `bb = CMD[3:0]` of format I (R73). -/
def bbField (w : Word) : BitVec 4 := w.extractLsb' 0 4
/-- `y = CMD[27:22]` of formats P and X (R74, R75). -/
def yField (w : Word) : BitVec 6 := w.extractLsb' 22 6
/-- `x = CMD[21:16]` of formats P and X (R74, R75). -/
def xField (w : Word) : BitVec 6 := w.extractLsb' 16 6
/-- `color = CMD[15:0]` of format P (R104). -/
def colorField (w : Word) : BitVec 16 := w.extractLsb' 0 16
/-- `zero = CMD[27:0]` of format N (R72). -/
def zeroN (w : Word) : BitVec 28 := w.extractLsb' 0 28
/-- `zero = CMD[27:4]` of format I (R73). -/
def zeroI (w : Word) : BitVec 24 := w.extractLsb' 4 24
/-- `zero = CMD[15:0]` of format X (R75). -/
def zeroX (w : Word) : BitVec 16 := w.extractLsb' 0 16

/-- A command whose format's `zero` field must be 0 (R78 clause 2). -/
def whenZero {n : Nat} (zero : BitVec n) (i : Instr) : Decoded :=
  if zero = 0 then .command i else .illegal .nonzeroField

/-- The decoder (R70, R77, R78): bits 31:28 alone select the format. -/
def decode (w : Word) : Decoded :=
  match opField w with
  | 0x1 => whenZero (zeroI w) (.init (bbField w))
  | 0x2 => .command (.wrpix (yField w) (xField w) (colorField w))
  | 0x3 => whenZero (zeroN w) .clear
  | 0x4 => whenZero (zeroN w) .output
  | 0x5 => whenZero (zeroN w) .geom
  | 0x6 => whenZero (zeroX w) (.rdcell (yField w) (xField w))
  | _ => .illegal .reservedOpcode

/-- The word of a command (R72 to R75). -/
def encode : Instr → Word
  | .init bb => 0x1#4 ++ 0#24 ++ bb
  | .wrpix y x color => 0x2#4 ++ y ++ x ++ color
  | .clear => 0x3#4 ++ 0#28
  | .output => 0x4#4 ++ 0#28
  | .geom => 0x5#4 ++ 0#28
  | .rdcell y x => 0x6#4 ++ y ++ x ++ 0#16

/-- One row of the opcode map (R77). -/
structure OpcodeRow where
  mnemonic : String
  mask : Word
  pattern : Word
  deriving DecidableEq, Repr

/-- "A decoder selects a row when `(CMD AND mask) = match`" (R77). -/
def OpcodeRow.selects (r : OpcodeRow) (w : Word) : Bool := decide (w &&& r.mask = r.pattern)

/-- The opcode map's rows, as R77 lists them. -/
def opcodeMap : List OpcodeRow :=
  [⟨"INIT", 0xFFFFFFF0#32, 0x10000000#32⟩,
   ⟨"WRPIX", 0xF0000000#32, 0x20000000#32⟩,
   ⟨"CLEAR", 0xFFFFFFFF#32, 0x30000000#32⟩,
   ⟨"OUTPUT", 0xFFFFFFFF#32, 0x40000000#32⟩,
   ⟨"GEOM", 0xFFFFFFFF#32, 0x50000000#32⟩,
   ⟨"RDCELL", 0xF000FFFF#32, 0x60000000#32⟩]

/-- A command's mnemonic, as the opcode map spells it. -/
def Instr.mnemonic : Instr → String
  | .init _ => "INIT"
  | .wrpix _ _ _ => "WRPIX"
  | .clear => "CLEAR"
  | .output => "OUTPUT"
  | .geom => "GEOM"
  | .rdcell _ _ => "RDCELL"

/-- The command of a decoded word, if it is one. -/
def Decoded.command? : Decoded → Option Instr
  | .command i => some i
  | .illegal _ => none

/-- The command word whose low `nbits` bits are those of `w`, every higher bit 0. A command is one 32-bit word in one
piece (R53, R70), so no byte order enters. -/
def tableWord (nbits w : Nat) : Word := BitVec.ofNat 32 (w % 2 ^ nbits)

/-- The decoder on a word numbered as spec/opcode_table.json numbers its bits. -/
def decodeTableWord (nbits w : Nat) : Option Instr := (decode (tableWord nbits w)).command?

end Sys2Proof
end

