-- ==== Sys2Proof/Config.lean ====
section
/-! DEFINITION. What one build of the block fixes (00_scope.md R3, R7), as plain data, and the values the spec leaves free,
as constants without a body. The values of this hardware's build stand in Machine/Params.lean. -/

namespace Sys2Proof

/-- The panel-size variant, chosen when the block is built (R3, D8). -/
inductive Variant where
  /-- 64x32, standard: R = 16, four address lines. -/
  | standard
  /-- 64x64, double density: R = 32, five address lines. -/
  | double
  deriving DecidableEq, Repr

/-- The line-failure policy, chosen when the block is built (R3, D9). -/
inductive FailPolicy where
  /-- A failed drive ends the OUTPUT (R144): this hardware. -/
  | propagate
  /-- A failed drive is ignored (R145): the legacy variant. -/
  | bestEffort
  deriving DecidableEq, Repr

/-- How a colour channel is widened to 8 bits (R7, D6). -/
inductive ExpandRule where
  /-- Bit replication (R92, R93): this hardware. -/
  | replicate
  /-- Rounded scaling (R94): the named alternative. -/
  | roundScale
  deriving DecidableEq, Repr

/-- The gamma ROM: 256 entries of 8 bits (R29). -/
abbrev GammaRom := Vector Byte 256

/-- The build-time parameters of R7. WIDTH is 64 in every build; HEIGHT, ROWS_PER_HALF, NADDR and NLINES derive from
`variant`. -/
structure Config where
  variant : Variant
  policy : FailPolicy
  expand : ExpandRule
  /-- DELAY_US, in microseconds; a legal build has it positive. -/
  delayUs : Nat
  gamma : GammaRom
  deriving DecidableEq, Repr

/-- The environment's answer to one line-drive request (R33). -/
inductive Answer where
  | ok
  | fail
  deriving DecidableEq, Repr

/-- What the line port shows the waiting block in one step: an answer, or none yet (R33, R194). -/
abbrev LineReply := Option Answer

/-- What the delay port shows the waiting block in one step (R34). -/
inductive DelayReply where
  /-- The delay has not completed yet. -/
  | pending
  /-- At least the requested time has passed since the request. -/
  | done
  deriving DecidableEq, Repr, Inhabited

/-- FREE VALUE (log 5): what the line port shows at the n-th look at a port whose script has run out. R33: "The answer
is a draw under no law: a model must admit both answers on every request". -/
opaque Config.lineReply : Nat → LineReply

/-- FREE VALUE (log 6): what the delay port shows at the n-th look at a port whose script has run out (R34: no upper
bound on a delay). -/
opaque Config.delayReply : Nat → DelayReply

/-- FREE VALUE (log 14): the level the environment gives each line before the line's first drive, by line number. R35:
"with the initial value a draw" (U7). -/
opaque Config.initialLevel : Nat → Level

/-- FREE VALUE (log 14): the level of a line after a drive answered `fail`, by the number of requests recorded before that
drive, so that each failure has a draw of its own (R35; U6). -/
opaque Config.failedLevel : Nat → Level

/-- FREE VALUE (log 19): how far from 36 the entry at 127 may lie for "roughly 36" to hold. R101 item 4 gives no
tolerance, so no bound on it is assumed. -/
opaque Config.midToneTolerance : Nat

/-- FREE VALUE (log 18): where the platform places CMD, STATUS and RESP on its bus (R58, D30). No rule reads it. -/
opaque Config.regBase : Nat

end Sys2Proof
end

