-- ==== Sys2Proof/Machine/Params.lean ====
section
/-! DEFINITION. The values of this hardware's build (00_scope.md R7), the parameters that derive from the variant, the gamma
ROM GAMMA28 (40_frame_buffer.md R100, 93_implementation_defined.md I1) and what a legal build is (R7, R101). -/

namespace Sys2Proof

/-- WIDTH: 64 in every build (R7). -/
abbrev panelWidth : Nat := 64

/-- ROWS_PER_HALF, written R: 16 or 32 (R7). -/
def Variant.rows : Variant → Nat
  | .standard => 16
  | .double => 32

/-- HEIGHT = 2*R (R7). -/
def Variant.height (v : Variant) : Nat := 2 * v.rows

/-- NADDR: the number of row-address lines (R7). -/
def Variant.naddr : Variant → Nat
  | .standard => 4
  | .double => 5

/-- NLINES = 6 + NADDR + 3 (R7). -/
def Variant.nlines (v : Variant) : Nat := 6 + v.naddr + 3

/-- Read the ROM at an 8-bit index (R29). -/
def GammaRom.lookup (g : GammaRom) (v : Byte) : Byte := g.get v.toFin

/-- Entries 0..63 of GAMMA28 (I1). -/
def gamma28Part0 : List Byte :=
  [0, 0, 0, 0, 0, 0, 0, 0, 0, 0, 0, 0, 0, 0, 0, 0,
   0, 0, 0, 0, 0, 0, 0, 0, 0, 0, 0, 0, 1, 1, 1, 1,
   1, 1, 1, 1, 1, 1, 1, 1, 1, 2, 2, 2, 2, 2, 2, 2,
   2, 3, 3, 3, 3, 3, 3, 3, 4, 4, 4, 4, 4, 5, 5, 5]

theorem gamma28Part0_length : gamma28Part0.length = 64 := rfl

/-- Entries 64..127 of GAMMA28 (I1). -/
def gamma28Part1 : List Byte :=
  [5, 6, 6, 6, 6, 7, 7, 7, 7, 8, 8, 8, 9, 9, 9, 10,
   10, 10, 11, 11, 11, 12, 12, 13, 13, 13, 14, 14, 15, 15, 16, 16,
   17, 17, 18, 18, 19, 19, 20, 20, 21, 21, 22, 22, 23, 24, 24, 25,
   25, 26, 27, 27, 28, 29, 29, 30, 31, 32, 32, 33, 34, 35, 35, 36]

theorem gamma28Part1_length : gamma28Part1.length = 64 := rfl

/-- Entries 128..191 of GAMMA28 (I1). -/
def gamma28Part2 : List Byte :=
  [37, 38, 39, 39, 40, 41, 42, 43, 44, 45, 46, 47, 48, 49, 50, 50,
   51, 52, 54, 55, 56, 57, 58, 59, 60, 61, 62, 63, 64, 66, 67, 68,
   69, 70, 72, 73, 74, 75, 77, 78, 79, 81, 82, 83, 85, 86, 87, 89,
   90, 92, 93, 95, 96, 98, 99, 101, 102, 104, 105, 107, 109, 110, 112, 114]

theorem gamma28Part2_length : gamma28Part2.length = 64 := rfl

/-- Entries 192..255 of GAMMA28 (I1). -/
def gamma28Part3 : List Byte :=
  [115, 117, 119, 120, 122, 124, 126, 127, 129, 131, 133, 135, 137, 138, 140, 142,
   144, 146, 148, 150, 152, 154, 156, 158, 160, 162, 164, 167, 169, 171, 173, 175,
   177, 180, 182, 184, 186, 189, 191, 193, 196, 198, 200, 203, 205, 208, 210, 213,
   215, 218, 220, 223, 225, 228, 231, 233, 236, 239, 241, 244, 247, 249, 252, 255]

theorem gamma28Part3_length : gamma28Part3.length = 64 := rfl

/-- The gamma ROM of this hardware: `GAMMA28[i] = floor(255 * (i/255)^2.8 + 0.5)` (R100, D7; log 21). -/
def gamma28 : GammaRom :=
  ⟨(gamma28Part0 ++ gamma28Part1 ++ gamma28Part2 ++ gamma28Part3).toArray, by
    rw [List.size_toArray, List.length_append, List.length_append, List.length_append, gamma28Part0_length,
      gamma28Part1_length, gamma28Part2_length, gamma28Part3_length]⟩

/-- R101 items 1 to 3: what every gamma table of this block has. -/
abbrev GammaRom.Legal (g : GammaRom) : Prop :=
  (∀ v : Fin 255, g.lookup (BitVec.ofNat 8 v.val) ≤ g.lookup (BitVec.ofNat 8 (v.val + 1))) ∧
    g.lookup 0 = 0 ∧ g.lookup 255 = 255

/-- R101 item 4, a named property with no bound: the entry at 127 is within `Config.midToneTolerance` of 36. -/
def GammaRom.MidTone (g : GammaRom) : Prop :=
  (g.lookup 127).toNat ≤ 36 + Config.midToneTolerance ∧ 36 ≤ (g.lookup 127).toNat + Config.midToneTolerance

/-- A legal build (R7): a positive delay and a gamma table as R101 items 1 to 3 ask. -/
abbrev Config.Legal (c : Config) : Prop := 0 < c.delayUs ∧ c.gamma.Legal

/-- This hardware's build (R7). The variant is an open parameter of the spec (D8); the model's reset state names 64x32
(log 1), and no statement about all states rests on it. -/
def Config.thisBuild : Config :=
  { variant := .standard, policy := .propagate, expand := .replicate, delayUs := 2, gamma := gamma28 }

end Sys2Proof
end

