-- ==== Sys2Proof/Machine/State.lean ====
section
/-! DEFINITION. The state of the machine: the block's own state (10_state.md R20), the build it was made with (00_scope.md
R7), the host's pins and inputs (R23, R191), and the environment's inputs and record (R33, R34, R204). -/

namespace Sys2Proof.Machine

/-- The frame buffer as plain data: (flat index of R52, channel value), indices strictly rising, no value equal to what
an unlisted index reads as. -/
abbrev Memory := List Host.Cell

/-- STATUS.ERR (R171): codes 6..15 are never written, so they have no constructor. -/
inductive Err where
  /-- Code 0. -/
  | none
  /-- Code 1: INIT with `bb` 0 or 9..15. Fatal. -/
  | configRange
  /-- Code 2: a `fail` answer under Propagate. Not fatal. -/
  | lineFail
  /-- Code 3: WRPIX or RDCELL with `y >= 2*R`. Fatal. -/
  | outOfBounds
  /-- Code 4: a word of R78. Fatal. -/
  | illegalCommand
  /-- Code 5: WRPIX, CLEAR, OUTPUT or RDCELL before INIT. Fatal. -/
  | notConfigured
  deriving DecidableEq, Repr

/-- The logical lines (R32). -/
inductive Line where
  | r1 | g1 | b1 | r2 | g2 | b2
  | a | b | c | d | f
  | clk | lat | oe
  deriving DecidableEq, Repr

/-- One event of a trace: a line-drive request or a delay request (R11, R15). -/
inductive Event where
  | drive (line : Line) (level : Level)
  | wait (us : Nat)
  deriving DecidableEq, Repr

/-- The sequencer (R30): idle, or running with `k` the index of the next event of its trace. -/
inductive Seq where
  | idle
  | running (k : Nat)
  deriving DecidableEq, Repr

/-- One request of the environment's record (R204): a drive with its answer, a completed wait, or a request that a reset
abandoned before the environment answered it (log 13). -/
inductive Issued where
  | drive (line : Line) (level : Level) (answer : Answer)
  | wait (us : Nat)
  | unanswered (e : Event)
  deriving DecidableEq, Repr

/-- What the host drives on the command port (R23). -/
inductive HostDrive where
  /-- CMD_VALID = 0, for one step. -/
  | quiet
  /-- CMD_VALID = 1 with this word on CMD; the offer stands until it is accepted. -/
  | offer (w : Word)
  deriving DecidableEq, Repr

/-- The whole machine. -/
structure State where
  /-- The build (R7); no step changes it. -/
  cfg : Config
  /-- CONFIGURED (R26). -/
  configured : Bool
  /-- `bb` (R26). -/
  bb : BitVec 4
  /-- STEP (R26). -/
  stepReg : Byte
  /-- COUNT (R26). -/
  countReg : Byte
  /-- FB (R27). -/
  fb : Memory
  /-- FAULTED (R36). -/
  faulted : Bool
  /-- STATUS.ERR (R24). -/
  err : Err
  /-- SEQ, and BUSY with it (R30). -/
  seq : Seq
  /-- RESP (R25). -/
  resp : Word
  /-- CMD, the word the host drives (R23). -/
  cmd : Word
  /-- CMD_VALID (R23). -/
  cmdValid : Bool
  /-- RST (R191). -/
  rst : Bool
  /-- What the host drives on the command port after the present step: one entry a step, but none while an offer is held
  (log 8). -/
  host : List HostDrive
  /-- What drives RST in each coming step, one entry a step, low past the end: RST moves in every step, an offer held or
  not (R191; log 8). -/
  resets : List Bool
  /-- What the line port shows at each coming look; past its end `Config.lineReply` (log 5). -/
  lineScript : List LineReply
  /-- What the delay port shows at each coming look; past its end `Config.delayReply` (log 6). -/
  delayScript : List DelayReply
  /-- How many looks at a port have been made: the index of the next free value (log 5). -/
  draws : Nat
  /-- The request that is out to the environment and not answered yet: at most one (R33, R34). -/
  outstanding : Option Event
  /-- The environment's record of the requests that are no longer out, newest first (R204, log 13). -/
  record : List Issued
  deriving DecidableEq, Repr

/-- Why the machine stops. -/
inductive Fault where
  /-- Raised by a sequencer step whose position is at or past the end of the trace: R144 gives a step only for
  `k < len(T)`, and no run from reset gets there (`State.Inv` of Safety.lean rules it out). SAFE: the model stops where
  the spec gives no step (log 12). -/
  | traceOverrun
  deriving DecidableEq, Repr

/-- Why a command has no meaning. -/
inductive Refusal where
  /-- Raised by an arm of `exec` whose command has no meaning yet. SAFE. No arm raises it. -/
  | notModelled (mnemonic : String)
  deriving DecidableEq, Repr

/-- The machine right after reset (R37, R190). CONFIGURED, FAULTED, ERR, SEQ and RESP as R37 gives them; FB, `bb`, STEP
and COUNT, which R37 leaves unspecified, at the values logs 2 and 3 name; the host and the environment have done
nothing yet (logs 5, 6, 8, 13). -/
def State.reset : State :=
  { cfg := Config.thisBuild
    configured := false
    bb := 0
    stepReg := 0
    countReg := 0
    fb := []
    faulted := false
    err := .none
    seq := .idle
    resp := 0
    cmd := 0
    cmdValid := false
    rst := false
    host := []
    resets := []
    lineScript := []
    delayScript := []
    draws := 0
    outstanding := none
    record := [] }

end Sys2Proof.Machine
end

