-- ==== Sys2Proof/Machine/Flags.lean ====
section
/-! DEFINITION. The STATUS register and what it is computed from (10_state.md R23, R24; 60_exceptions.md R171), and the
layouts of RESP (40_frame_buffer.md R106, R107). -/

namespace Sys2Proof.Machine

/-- BUSY is 1 exactly when SEQ is Running (R30). -/
def Seq.busy : Seq → Bool
  | .idle => false
  | .running _ => true

/-- BUSY (R30). -/
def State.busy (s : State) : Bool := s.seq.busy

/-- CMD_READY = NOT BUSY (R23). -/
def State.cmdReady (s : State) : Bool := !s.busy

/-- The error codes of R171. -/
def Err.code : Err → BitVec 4
  | .none => 0
  | .configRange => 1
  | .lineFail => 2
  | .outOfBounds => 3
  | .illegalCommand => 4
  | .notConfigured => 5

/-- The "Fatal" column of R171. -/
def Err.fatal : Err → Bool
  | .none => false
  | .configRange => true
  | .lineFail => false
  | .outOfBounds => true
  | .illegalCommand => true
  | .notConfigured => true

/-- The VARIANT bit: 0 for 64x32, 1 for 64x64 (R24). -/
def Variant.bit : Variant → Bool
  | .standard => false
  | .double => true

/-- The POLICY bit: 0 for Propagate, 1 for BestEffort (R24). -/
def FailPolicy.bit : FailPolicy → Bool
  | .propagate => false
  | .bestEffort => true

/-- The BB field: `bb` when CONFIGURED = 1, otherwise 0 (R24). -/
def State.bbStatus (s : State) : BitVec 4 := if s.configured then s.bb else 0

/-- The STATUS register (R24), most significant field first: reserved 31:14, POLICY, VARIANT, BB, ERR, reserved 3,
FAULTED, CONFIGURED, BUSY. Reading it has no side effect: it is a function of the state. -/
def statusWord (s : State) : Word :=
  0#18 ++ BitVec.ofBool (FailPolicy.bit s.cfg.policy) ++ BitVec.ofBool (Variant.bit s.cfg.variant) ++ s.bbStatus ++
    s.err.code ++ 0#1 ++ BitVec.ofBool s.faulted ++ BitVec.ofBool s.configured ++ BitVec.ofBool s.busy

/-- GEOM's answer `{zext_16(2*R), zext_16(64)}` (R107). -/
def geomWord (v : Variant) : Word := BitVec.ofNat 16 v.height ++ BitVec.ofNat 16 panelWidth

/-- RDCELL's answer `{0x00, red, green, blue}` (R106). -/
def tripleWord (red green blue : Byte) : Word := 0x00#8 ++ red ++ green ++ blue

end Sys2Proof.Machine
end

