-- ==== Sys2Proof/Machine/Operands.lean ====
section
/-! DEFINITION. Operand forms: the colour path (40_frame_buffer.md R91 to R97) and the pixel addressing (20_memory.md R51,
R52). -/

namespace Sys2Proof.Machine

/-- A red, green and blue value of 8 bits each. -/
structure Triple where
  red : Byte
  green : Byte
  blue : Byte
  deriving DecidableEq, Repr

/-- `cr = color[15:11]` (R91). -/
def redOf (color : BitVec 16) : BitVec 5 := color.extractLsb' 11 5
/-- `cg = color[10:5]` (R91). -/
def greenOf (color : BitVec 16) : BitVec 6 := color.extractLsb' 5 6
/-- `cb = color[4:0]` (R91). -/
def blueOf (color : BitVec 16) : BitVec 5 := color.extractLsb' 0 5

/-- The 5-bit expansion, for red and blue: R92 under Replicate, R94 under RoundScale. -/
def e5 (rule : ExpandRule) (v : BitVec 5) : Byte :=
  match rule with
  | .replicate => (v.setWidth 8 <<< 3) ||| (v.setWidth 8 >>> 2)
  | .roundScale => BitVec.ofNat 8 ((v.toNat * 255 + 15) / 31)

/-- The 6-bit expansion, for green: R93 under Replicate, R94 under RoundScale. -/
def e6 (rule : ExpandRule) (v : BitVec 6) : Byte :=
  match rule with
  | .replicate => (v.setWidth 8 <<< 2) ||| (v.setWidth 8 >>> 4)
  | .roundScale => BitVec.ofNat 8 ((v.toNat * 255 + 31) / 63)

/-- The expanded, still linear channels of a colour (R96): one rule for all three. -/
def expandColor (rule : ExpandRule) (color : BitVec 16) : Triple :=
  { red := e5 rule (redOf color), green := e6 rule (greenOf color), blue := e5 rule (blueOf color) }

/-- The value stored for a colour (R97): each expanded channel looked up once in the gamma ROM. -/
def ingest (cfg : Config) (color : BitVec 16) : Triple :=
  let t := expandColor cfg.expand color
  { red := cfg.gamma.lookup t.red, green := cfg.gamma.lookup t.green, blue := cfg.gamma.lookup t.blue }

/-- Where a panel pixel is stored (R51): the half-row, the column, and which triple of the cell. -/
structure Place where
  h : Nat
  c : Nat
  bottom : Bool
  deriving DecidableEq, Repr

/-- The pixel map of R51: `h = y mod R`, `bottom = (y >= R)`. -/
def placeOf (v : Variant) (x y : Nat) : Place :=
  { h := y % v.rows, c := x, bottom := decide (v.rows ≤ y) }

/-- The channel number of a triple's red; green and blue follow it (R51: 0, 1, 2 or 3, 4, 5). -/
def firstChannel (bottom : Bool) : Nat := if bottom then 3 else 0

/-- `idx(h, c, ch) = (h * 64 + c) * 6 + ch` (R52). -/
def fbIndex (h c ch : Nat) : Nat := (h * 64 + c) * 6 + ch

/-- How many channels FB has: `R * 64 * 6` (R27). -/
def fbSize (v : Variant) : Nat := v.rows * 384

/-- `y >= 2*R`: the row is out of bounds (R104, R106). -/
def outOfRows (v : Variant) (y : BitVec 6) : Bool := decide (v.height ≤ y.toNat)

/-- `bb < 1 or bb > 8`: the bit depth is out of range (R103). -/
def outOfDepth (bb : BitVec 4) : Bool := decide (bb.toNat < 1) || decide (8 < bb.toNat)

/-- `STEP = 2^(8-bb)` (R26). -/
def stepOf (bb : BitVec 4) : Byte := BitVec.ofNat 8 (2 ^ (8 - bb.toNat))

/-- `COUNT = 2^bb - 1` (R26). -/
def countOf (bb : BitVec 4) : Byte := BitVec.ofNat 8 (2 ^ bb.toNat - 1)

end Sys2Proof.Machine
end

