-- ==== Sys2Proof/Machine/Ops.lean ====
section
/-! DEFINITION. The shared operations: reads and writes of FB, the entry into an error and the way out of it, the common
checks of a command, the command port, and the two outward ports. -/

namespace Sys2Proof.Machine

/-! Frame buffer -/

/-- What an index that is not listed reads as: INIT and CLEAR leave every channel 0 (R103, R105). Before the first INIT
the spec leaves FB open and no rule reads it (R37; log 2). -/
def Memory.unlisted : Byte := 0

/-- The canonical form: indices strictly rising, from `lo` up, and no value equal to `Memory.unlisted`. -/
def Memory.wfFrom : Nat → Memory → Bool
  | _, [] => true
  | lo, (a, v) :: t => decide (lo ≤ a) && decide (v ≠ Memory.unlisted) && Memory.wfFrom (a + 1) t

/-- The canonical form of a memory: equal memories are equal lists. -/
def Memory.wf (m : Memory) : Bool := Memory.wfFrom 0 m

/-- Read one channel by its flat index (R52). -/
def Memory.read : Memory → Nat → Byte
  | [], _ => Memory.unlisted
  | (b, v) :: t, a => if b = a then v else Memory.read t a

/-- Put a value in front, unless it is what an unlisted index reads as. -/
def Memory.put (a : Nat) (v : Byte) (t : Memory) : Memory := if v = Memory.unlisted then t else (a, v) :: t

/-- Write one channel by its flat index, keeping the canonical form. -/
def Memory.write : Memory → Nat → Byte → Memory
  | [], a, v => Memory.put a v []
  | (b, w) :: t, a, v =>
      if a < b then Memory.put a v ((b, w) :: t)
      else if a = b then Memory.put a v t
      else (b, w) :: Memory.write t a v

/-- Every index is below `n`. -/
def Memory.below (n : Nat) (m : Memory) : Bool := m.all fun p => decide (p.1 < n)

/-- FB with every channel 0 (R103, R105). -/
def Memory.zeroed : Memory := []

/-- Write the three channels of one pixel together (R55, R56). -/
def Memory.writeTriple (m : Memory) (p : Place) (t : Triple) : Memory :=
  ((m.write (fbIndex p.h p.c (firstChannel p.bottom)) t.red).write
    (fbIndex p.h p.c (firstChannel p.bottom + 1)) t.green).write (fbIndex p.h p.c (firstChannel p.bottom + 2)) t.blue

/-- Read the three channels of one pixel (R55). -/
def Memory.readTriple (m : Memory) (p : Place) : Triple :=
  { red := m.read (fbIndex p.h p.c (firstChannel p.bottom))
    green := m.read (fbIndex p.h p.c (firstChannel p.bottom + 1))
    blue := m.read (fbIndex p.h p.c (firstChannel p.bottom + 2)) }

/-- `FB[h][c].ch` (R11). -/
def State.channel (s : State) (h c ch : Nat) : Byte := s.fb.read (fbIndex h c ch)

/-! Errors -/

/-- `raise Fatal(code)` (R174): ERR and FAULTED are written, nothing else. -/
def State.raiseFatal (code : Err) (s : State) : State := { s with err := code, faulted := true }

/-- `raise LineFail` (R176): SEQ and BUSY fall, ERR is written, nothing else. -/
def State.raiseLineFail (s : State) : State := { s with seq := .idle, err := .lineFail }

/-- The record once the request that is out, if there is one, is abandoned (R146): it was issued, so it stays on record,
unanswered (R204; log 13). -/
def State.abandoned (s : State) : List Issued :=
  match s.outstanding with
  | none => s.record
  | some e => .unanswered e :: s.record

/-- Reset (R190, R37): every piece of the block's own state takes its reset value, and a request that is out is abandoned;
the build, the host's pins and inputs, and the environment's inputs and record are not the block's (log 15). Nothing else
leaves FAULTED. -/
def State.resetBlock (s : State) : State :=
  { State.reset with
    cfg := s.cfg, cmd := s.cmd, cmdValid := s.cmdValid, rst := s.rst, host := s.host, resets := s.resets,
    lineScript := s.lineScript, delayScript := s.delayScript, draws := s.draws, record := s.abandoned }

/-- The checks before a legal command's own pseudocode, in R172's order: FAULTED discards the command (R175), then
`needsInit` commands raise NOT_CONFIGURED before the first INIT. The illegal-word check stands between the two and has
passed, since the word decoded. -/
def checked (needsInit : Bool) (body : State → Host.Outcome State Fault Refusal) (s : State) :
    Host.Outcome State Fault Refusal :=
  if s.faulted then .next s
  else if needsInit && !s.configured then .next (s.raiseFatal .notConfigured)
  else body s

/-- An accepted illegal word (R78, R172): discarded while FAULTED, else the fatal ILLEGAL_COMMAND. -/
def acceptIllegal (s : State) : Host.Outcome State Fault Refusal :=
  if s.faulted then .next s else .next (s.raiseFatal .illegalCommand)

/-! The host's pins -/

/-- RST takes its next level (R191); low when the list is empty. -/
def State.driveRst (s : State) : State := { s with rst := s.resets.headD false, resets := s.resets.tail }

/-- The command port takes the host's next entry; when there is none, the host is quiet. -/
def State.driveCmd (s : State) : State :=
  match s.host with
  | [] => { s with cmdValid := false }
  | .quiet :: t => { s with cmdValid := false, host := t }
  | .offer w :: t => { s with cmd := w, cmdValid := true, host := t }

/-- The host's pins after a step with no offer left standing: both inputs move. -/
def State.driveNext (s : State) : State := s.driveRst.driveCmd

/-- The host's pins after a step that accepted no command: an offered command is held (R23), and RST moves all the same;
with none offered both move. -/
def State.hold (s : State) : State := if s.cmdValid then s.driveRst else s.driveNext

/-- A command is accepted in a step where CMD_VALID = 1 and CMD_READY = 1 (R23). -/
def State.accepts (s : State) : Bool := s.cmdValid && s.cmdReady

/-- The word on the command port, decoded. -/
def State.fetched (s : State) : Decoded := decode s.cmd

/-! The line port and the delay port -/

/-- What the line port shows now (R33): the script's head, or a free value. -/
def State.lineReply (s : State) : LineReply :=
  match s.lineScript with
  | r :: _ => r
  | [] => Config.lineReply s.draws

/-- What the delay port shows now (R34): the script's head, or a free value. -/
def State.delayReply (s : State) : DelayReply :=
  match s.delayScript with
  | r :: _ => r
  | [] => Config.delayReply s.draws

/-- One look at the line port is over. -/
def State.takeLine (s : State) : State := { s with lineScript := s.lineScript.tail, draws := s.draws + 1 }

/-- One look at the delay port is over. -/
def State.takeDelay (s : State) : State := { s with delayScript := s.delayScript.tail, draws := s.draws + 1 }

/-- The environment answers the request that is out: it is recorded, and none is out (R204). -/
def State.log (e : Issued) (s : State) : State := { s with record := e :: s.record, outstanding := none }

/-- The request is out, and the environment has not answered it (R33, R34, R194). -/
def State.await (e : Event) (s : State) : State := { s with outstanding := some e }

end Sys2Proof.Machine
end

