-- ==== Sys2Proof/Machine/FrameBuffer.lean ====
section
/-! DEFINITION. The frame-buffer and colour-ingest commands (40_frame_buffer.md R103 to R107). -/

namespace Sys2Proof.Machine

/-- INIT (R103): configure and zero the buffer, or the fatal CONFIG_RANGE with nothing else written. -/
def execInit (bb : BitVec 4) (s : State) : Host.Outcome State Fault Refusal :=
  checked false (fun s =>
    if outOfDepth bb then .next (s.raiseFatal .configRange)
    else .next
      { s with bb := bb, stepReg := stepOf bb, countReg := countOf bb, fb := Memory.zeroed, configured := true,
               err := .none }) s

/-- WRPIX (R104): write one pixel through the colour path. -/
def execWrpix (y x : BitVec 6) (color : BitVec 16) (s : State) : Host.Outcome State Fault Refusal :=
  checked true (fun s =>
    if outOfRows s.cfg.variant y then .next (s.raiseFatal .outOfBounds)
    else .next
      { s with fb := s.fb.writeTriple (placeOf s.cfg.variant x.toNat y.toNat) (ingest s.cfg color), err := .none }) s

/-- CLEAR (R105): zero every channel, without a gamma lookup. -/
def execClear (s : State) : Host.Outcome State Fault Refusal :=
  checked true (fun s => .next { s with fb := Memory.zeroed, err := .none }) s

/-- GEOM (R107): report the panel geometry, configured or not. -/
def execGeom (s : State) : Host.Outcome State Fault Refusal :=
  checked false (fun s => .next { s with resp := geomWord s.cfg.variant, err := .none }) s

/-- RDCELL (R106): read back one pixel's stored triple. -/
def execRdcell (y x : BitVec 6) (s : State) : Host.Outcome State Fault Refusal :=
  checked true (fun s =>
    if outOfRows s.cfg.variant y then .next (s.raiseFatal .outOfBounds)
    else
      let t := s.fb.readTriple (placeOf s.cfg.variant x.toNat y.toNat)
      .next { s with resp := tripleWord t.red t.green t.blue, err := .none }) s

end Sys2Proof.Machine
end

