-- ==== Sys2Proof/Machine/Output.lean ====
section
/-! DEFINITION. The OUTPUT command's accept step (41_output_scan.md R130); the sequencer performs the trace afterwards, one
event a step (Machine/Sequencer.lean). -/

namespace Sys2Proof.Machine

/-- OUTPUT (R130): `SEQ <- Running(T, 0)`, and BUSY rises with it. ERR is written only when the OUTPUT ends (R24). -/
def execOutput (s : State) : Host.Outcome State Fault Refusal :=
  checked true (fun s => .next { s with seq := .running 0 }) s

end Sys2Proof.Machine
end

