-- ==== Sys2Proof/Machine/Dispatch.lean ====
section
/-! DEFINITION. The dispatch of a decoded command to its meaning, one arm per constructor. -/

namespace Sys2Proof.Machine

def exec (i : Instr) (s : State) : Host.Outcome State Fault Refusal :=
  match i with
  | .init bb => Sys2Proof.Machine.execInit bb s
  | .wrpix y x color => Sys2Proof.Machine.execWrpix y x color s
  | .clear => Sys2Proof.Machine.execClear s
  | .output => Sys2Proof.Machine.execOutput s
  | .geom => Sys2Proof.Machine.execGeom s
  | .rdcell y x => Sys2Proof.Machine.execRdcell y x s

end Sys2Proof.Machine
end

