-- ==== Sys2Proof/Machine/Scan.lean ====
section
/-! DEFINITION. The trace of an OUTPUT (41_output_scan.md R131 to R143): the whole list as R132 to R135 write it, and its
k-th event computed from the counters of 10_state.md R31, which is what the sequencer runs (log 4). -/

namespace Sys2Proof.Machine

/-- The number of a line for the line port (R32). -/
def Line.number : Line → Nat
  | .r1 => 0
  | .g1 => 1
  | .b1 => 2
  | .r2 => 3
  | .g2 => 4
  | .b2 => 5
  | .a => 6
  | .b => 7
  | .c => 8
  | .d => 9
  | .f => 10
  | .clk => 11
  | .lat => 12
  | .oe => 13

/-- Which lines a build has: line 10, F, exists in the 64x64 variant only (R32). -/
def Line.exists (v : Variant) : Line → Bool
  | .f => decide (v = .double)
  | _ => true

/-- `sat255(v) = min(v, 255)` (R10). -/
def sat255 (v : Nat) : Nat := min v 255

/-- `th(i) = sat255((i + 1) * STEP)` (R131). -/
def threshold (step : Byte) (i : Nat) : Nat := sat255 ((i + 1) * step.toNat)

/-- `lvl(v, t) = (v >= t)` (R131). -/
def lvl (v : Byte) (t : Nat) : Level := decide (t ≤ v.toNat)

/-- The colour line that shows a channel: line and channel numbers run alike (R27, R32, R133). -/
def colorLine : Nat → Line
  | 0 => .r1
  | 1 => .g1
  | 2 => .b1
  | 3 => .r2
  | 4 => .g2
  | _ => .b2

/-- `Column(t, r, c)` (R133): six colour drives in channel order, then one clock pulse. -/
def columnEvents (s : State) (t r c : Nat) : List Event :=
  [.drive .r1 (lvl (s.channel r c 0) t),
   .drive .g1 (lvl (s.channel r c 1) t),
   .drive .b1 (lvl (s.channel r c 2) t),
   .drive .r2 (lvl (s.channel r c 3) t),
   .drive .g2 (lvl (s.channel r c 4) t),
   .drive .b2 (lvl (s.channel r c 5) t),
   .drive .clk true,
   .drive .clk false]

/-- `Address(r)` (R135): one address line per bit of `r`, F only when R = 32. -/
def addressEvents (v : Variant) (r : Nat) : List Event :=
  [.drive .a (r.testBit 0), .drive .b (r.testBit 1), .drive .c (r.testBit 2), .drive .d (r.testBit 3)] ++
    match v with
    | .standard => []
    | .double => [.drive .f (r.testBit 4)]

/-- `RowTail(r)` (R134): blank, latch, address, unblank, with the three fixed waits. -/
def rowTail (cfg : Config) (r : Nat) : List Event :=
  [.drive .oe true, .wait cfg.delayUs, .drive .lat false, .wait cfg.delayUs, .drive .lat true] ++
    addressEvents cfg.variant r ++ [.wait cfg.delayUs, .drive .oe false]

/-- `RowShift(t, r)` (R132): the 64 columns in ascending order. -/
def rowShift (s : State) (t r : Nat) : List Event := (List.range panelWidth).flatMap fun c => columnEvents s t r c

/-- `SubFrame(i)` (R132): every half-row in ascending order. -/
def subFrame (s : State) (i : Nat) : List Event :=
  (List.range s.cfg.variant.rows).flatMap fun r =>
    rowShift s (threshold s.stepReg i) r ++ rowTail s.cfg r

/-- `ScanTrace` (R132): the sub-frames in ascending order, then the final blank (R140). -/
def scanTrace (s : State) : List Event :=
  ((List.range s.countReg.toNat).flatMap fun i => subFrame s i) ++ [.drive .oe true]

/-- The number of events of one row: `519 + NADDR` (R147). -/
def rowLength (v : Variant) : Nat := 519 + v.naddr

/-- How many rows one OUTPUT scans: `COUNT * R`. -/
def rowCount (s : State) : Nat := s.countReg.toNat * s.cfg.variant.rows

/-- `len(T) = COUNT * R * (519 + NADDR) + 1` (R148). -/
def traceLength (s : State) : Nat := rowCount s * rowLength s.cfg.variant + 1

/-- The sequencer's position as the counters of R31. -/
inductive Position where
  /-- Sub-frame `i`, half-row `r`, column `c`, micro-step `m` of the column's eight. -/
  | column (i r c m : Nat)
  /-- Sub-frame `i`, half-row `r`, micro-step `m` of the row tail. -/
  | tail (i r m : Nat)
  /-- The final blank: the last position (R31). -/
  | finalBlank
  deriving DecidableEq, Repr

/-- The counters at event index `k` (R148: column `c` of row `r` in sub-frame `i` begins at
`(i*R + r)*(519 + NADDR) + 8*c`, its row tail 512 after the row's first event); none past the final blank. -/
def position (s : State) (k : Nat) : Option Position :=
  let len := rowLength s.cfg.variant
  let row := k / len
  let m := k % len
  if row < rowCount s then
    let i := row / s.cfg.variant.rows
    let r := row % s.cfg.variant.rows
    if m < 512 then some (.column i r (m / 8) (m % 8)) else some (.tail i r (m - 512))
  else if k = rowCount s * len then some .finalBlank
  else none

/-- The event at a position (R133, R134, R140). -/
def Position.event (s : State) : Position → Option Event
  | .column i r c m => (columnEvents s (threshold s.stepReg i) r c)[m]?
  | .tail _ r m => (rowTail s.cfg r)[m]?
  | .finalBlank => some (.drive .oe true)

/-- `T[k]`, computed from the counters on the fly (R30, R31). -/
def eventAt (s : State) (k : Nat) : Option Event := (position s k).bind (Position.event s)

/-- How the counters advance (R31): the micro-step, then the column, then the row tail, then the row, then the
sub-frame, then the final blank. -/
def Position.succ (s : State) : Position → Option Position
  | .column i r c m =>
      if m + 1 < 8 then some (.column i r c (m + 1))
      else if c + 1 < panelWidth then some (.column i r (c + 1) 0)
      else some (.tail i r 0)
  | .tail i r m =>
      if m + 1 < 7 + s.cfg.variant.naddr then some (.tail i r (m + 1))
      else if r + 1 < s.cfg.variant.rows then some (.column i (r + 1) 0 0)
      else if i + 1 < s.countReg.toNat then some (.column (i + 1) 0 0 0)
      else some .finalBlank
  | .finalBlank => none

/-- The time in microseconds that an event's wait lasts at least (R34); a drive has none (R203). -/
def Event.waitUs : Event → Nat
  | .drive _ _ => 0
  | .wait us => us

/-- An event is a drive. -/
def Event.isDrive : Event → Bool
  | .drive _ _ => true
  | .wait _ => false

/-- An event drives this line. -/
def Event.drives (l : Line) : Event → Bool
  | .drive l' _ => decide (l' = l)
  | .wait _ => false

end Sys2Proof.Machine
end

