-- ==== Sys2Proof/Machine/Sequencer.lean ====
section
/-! DEFINITION. One step of the sequencer (41_output_scan.md R144, R145): it performs one event, once the environment has
answered it (10_state.md R33, R34). -/

namespace Sys2Proof.Machine

/-- `k <- k + 1; if k = len(T): SEQ <- Idle; BUSY <- 0; ERR <- NONE` (R144). -/
def State.advance (k : Nat) (s : State) : State :=
  if k + 1 = traceLength s then { s with seq := .idle, err := .none } else { s with seq := .running (k + 1) }

/-- What follows an answered drive request: `ok` advances; `fail` ends the OUTPUT under Propagate (R144, R176) and is
ignored under BestEffort (R145). -/
def afterDrive (k : Nat) (l : Line) (v : Level) (answer : Answer) (s : State) : State :=
  let s' := s.takeLine.log (.drive l v answer)
  match answer, s.cfg.policy with
  | .ok, _ => s'.advance k
  | .fail, .propagate => s'.raiseLineFail
  | .fail, .bestEffort => s'.advance k

/-- What follows a completed delay request (R144). -/
def afterWait (k us : Nat) (s : State) : State := (s.takeDelay.log (.wait us)).advance k

/-- One sequencer step at position `k`. While the environment has not answered, the request is out and the step
completes no event (R194; log 7). -/
def seqStep (k : Nat) (s : State) : Host.Outcome State Fault Refusal :=
  match eventAt s k with
  | none => .fault .traceOverrun
  | some (.drive l v) =>
    match s.lineReply with
    | none => .next (s.takeLine.await (.drive l v))
    | some answer => .next (afterDrive k l v answer s)
  | some (.wait us) =>
    match s.delayReply with
    | .pending => .next (s.takeDelay.await (.wait us))
    | .done => .next (afterWait k us s)

end Sys2Proof.Machine
end

