-- ==== Sys2Proof/Machine/Step.lean ====
section
/-! DEFINITION. One step of the machine: reset, else an event of the running OUTPUT, else the acceptance of the offered
command (10_state.md R23, R30; 70_reset_and_hazards.md R190). -/

namespace Sys2Proof.Machine

/-- The accepted command runs, the host's pins having moved on (R23, R172). -/
def accept (s : State) : Host.Outcome State Fault Refusal :=
  match s.fetched with
  | .command i => exec i s.driveNext
  | .illegal _ => acceptIllegal s.driveNext

/-- One step. RST resets the block in one step (R190). While BUSY the sequencer performs its event and an offered
command is held. While idle, an offered command is accepted (R23); with none offered, only the host's pins move. -/
def step (s : State) : Host.Outcome State Fault Refusal :=
  if s.rst then .next s.resetBlock.hold
  else
    match s.seq with
    | .running k => seqStep k s.hold
    | .idle => if s.accepts then accept s else .next s.hold

/-- The host offers the command word whose low `nbits` bits are those of `w`, and the block is ready to accept it: CMD
and CMD_VALID hold the offer, RST is not asserted, SEQ is Idle and no request is out. The machine fetches from nowhere
else (R22, R64; log 16). -/
def State.withFetchWord (s : State) (nbits w : Nat) : State :=
  { s with cmd := tableWord nbits w, cmdValid := true, rst := false, seq := .idle, outstanding := none }

end Sys2Proof.Machine
end

