-- ==== Sys2Proof/WellFormed.lean ====
section
/-! DEFINITION. Which source lines spell a command (30_encoding.md R80): every operand fits its field. A decoded `Instr`
needs no such check, since its operand types are exactly the fields' widths. -/

namespace Sys2Proof

/-- A pixel's operands fit their fields: "`x` or `y` above 63" and "`color16` above 0xFFFF" are refused (R80). -/
def Pixel.wellFormed (p : Pixel) : Bool :=
  decide (p.x ≤ 63) && decide (p.y ≤ 63) && decide (p.color ≤ 0xFFFF)

/-- An assembler refuses an operand that does not fit its field; it does not refuse `bb` 0 or 9..15, nor a `y` out of
range for the variant (R80). -/
def SourceLine.wellFormed : SourceLine → Bool
  | .init bb => decide (bb ≤ 15)
  | .wrpix p => p.wellFormed
  | .wrpixRgb x y cr cg cb =>
      decide (x ≤ 63) && decide (y ≤ 63) && decide (cr ≤ 31) && decide (cg ≤ 63) && decide (cb ≤ 31)
  | .clear => true
  | .output => true
  | .geom => true
  | .rdcell x y => decide (x ≤ 63) && decide (y ≤ 63)
  | .draw ps => ps.all Pixel.wellFormed

end Sys2Proof
end

