-- ==== Sys2Proof/Machine/Assembler.lean ====
section
/-! DEFINITION. The assembler of 30_encoding.md R80: the text of a line, the word of each command, the DRAW
pseudo-instruction. What R80 leaves open of the text (white space, letter case, empty lines) is log 17. -/

namespace Sys2Proof.Machine

/-! Words -/

/-- `0x20000000 OR (y << 22) OR (x << 16) OR color16` (R80). -/
def pixelWord (p : Pixel) : Word :=
  0x20000000#32 ||| (BitVec.ofNat 32 p.y <<< 22) ||| (BitVec.ofNat 32 p.x <<< 16) ||| BitVec.ofNat 32 p.color

/-- The words a source line spells (R80's table; DRAW spells one WRPIX per pixel, in the order written). -/
def lineWords : SourceLine → List Word
  | .init bb => [0x10000000#32 ||| BitVec.ofNat 32 bb]
  | .wrpix p => [pixelWord p]
  | .wrpixRgb x y cr cg cb =>
      [0x20000000#32 ||| (BitVec.ofNat 32 y <<< 22) ||| (BitVec.ofNat 32 x <<< 16) ||| (BitVec.ofNat 32 cr <<< 11) |||
        (BitVec.ofNat 32 cg <<< 5) ||| BitVec.ofNat 32 cb]
  | .clear => [0x30000000#32]
  | .output => [0x40000000#32]
  | .geom => [0x50000000#32]
  | .rdcell x y => [0x60000000#32 ||| (BitVec.ofNat 32 y <<< 22) ||| (BitVec.ofNat 32 x <<< 16)]
  | .draw ps => ps.map pixelWord

/-- Assemble one line: "An assembler refuses an operand that does not fit its field" (R80). -/
def assembleLine (l : SourceLine) : Option (List Word) := if l.wellFormed then some (lineWords l) else none

/-- Assemble a program, one line after the other; one refused line refuses it. -/
def assemble : List SourceLine → Option (List Word)
  | [] => some []
  | l :: t => (assembleLine l).bind fun ws => (assemble t).map fun rest => ws ++ rest

/-- The commands a source line stands for, its operands taken as the fields' values (R76, R80). -/
def lineCommands : SourceLine → List Instr
  | .init bb => [.init (BitVec.ofNat 4 bb)]
  | .wrpix p => [.wrpix (BitVec.ofNat 6 p.y) (BitVec.ofNat 6 p.x) (BitVec.ofNat 16 p.color)]
  | .wrpixRgb x y cr cg cb =>
      [.wrpix (BitVec.ofNat 6 y) (BitVec.ofNat 6 x) (BitVec.ofNat 5 cr ++ BitVec.ofNat 6 cg ++ BitVec.ofNat 5 cb)]
  | .clear => [.clear]
  | .output => [.output]
  | .geom => [.geom]
  | .rdcell x y => [.rdcell (BitVec.ofNat 6 y) (BitVec.ofNat 6 x)]
  | .draw ps => ps.map fun p => .wrpix (BitVec.ofNat 6 p.y) (BitVec.ofNat 6 p.x) (BitVec.ofNat 16 p.color)

/-! Text -/

/-- The tokens of a line. -/
inductive Token where
  | name (letters : List Char)
  | num (n : Nat)
  | comma
  | lpar
  | rpar
  deriving DecidableEq, Repr

/-- The value of a digit in the given base, 10 or 16. -/
def digitOf (base : Nat) (ch : Char) : Option Nat :=
  let n := ch.toNat
  if 48 ≤ n ∧ n ≤ 57 then some (n - 48)
  else if base = 16 ∧ 97 ≤ n ∧ n ≤ 102 then some (n - 87)
  else if base = 16 ∧ 65 ≤ n ∧ n ≤ 70 then some (n - 55)
  else none

/-- A run of digits, read after the value `acc`. -/
def digitsFrom (base : Nat) : Nat → List Char → Option Nat
  | acc, [] => some acc
  | acc, ch :: t => (digitOf base ch).bind fun d => digitsFrom base (acc * base + d) t

/-- A letter of a mnemonic. -/
def isLetter (ch : Char) : Bool := decide (65 ≤ ch.toNat) && decide (ch.toNat ≤ 90)

/-- A run of letters or digits: "Numbers are decimal, or hexadecimal with `0x`" (R80). -/
def wordToken : List Char → Option Token
  | '0' :: 'x' :: d :: t => (digitsFrom 16 0 (d :: t)).map Token.num
  | ch :: t =>
      if isLetter ch then (if t.all isLetter then some (.name (ch :: t)) else none)
      else (digitsFrom 10 0 (ch :: t)).map Token.num
  | [] => none

/-- Close the run `run`, held in reverse, before the tokens that follow it. -/
def closeRun (run : List Char) (rest : List Token) : Option (List Token) :=
  match run with
  | [] => some rest
  | _ :: _ => (wordToken run.reverse).map fun t => t :: rest

/-- The tokens of a line; blanks separate, commas and parentheses stand alone. -/
def tokensFrom (run : List Char) : List Char → Option (List Token)
  | [] => closeRun run []
  | ch :: t =>
      if ch = ' ' ∨ ch = '\t' ∨ ch = '\r' then (tokensFrom [] t).bind (closeRun run)
      else if ch = ',' then (tokensFrom [] t).bind fun ts => closeRun run (.comma :: ts)
      else if ch = '(' then (tokensFrom [] t).bind fun ts => closeRun run (.lpar :: ts)
      else if ch = ')' then (tokensFrom [] t).bind fun ts => closeRun run (.rpar :: ts)
      else tokensFrom (ch :: run) t

/-- `(x0, y0, c0), (x1, y1, c1), ..., (xn, yn, cn)` (R80). -/
def parsePixels : List Token → Option (List Pixel)
  | [.lpar, .num x, .comma, .num y, .comma, .num color, .rpar] => some [{ x := x, y := y, color := color }]
  | .lpar :: .num x :: .comma :: .num y :: .comma :: .num color :: .rpar :: .comma :: rest =>
      (parsePixels rest).map fun ps => { x := x, y := y, color := color } :: ps
  | _ => none

/-- One line's tokens as a source line (R80's syntax column). -/
def parseTokens : List Token → Option SourceLine
  | [.name ['I', 'N', 'I', 'T'], .num bb] => some (.init bb)
  | [.name ['W', 'R', 'P', 'I', 'X'], .num x, .comma, .num y, .comma, .num color] =>
      some (.wrpix { x := x, y := y, color := color })
  | [.name ['W', 'R', 'P', 'I', 'X'], .num x, .comma, .num y, .comma, .num cr, .comma, .num cg, .comma, .num cb] =>
      some (.wrpixRgb x y cr cg cb)
  | [.name ['C', 'L', 'E', 'A', 'R']] => some .clear
  | [.name ['O', 'U', 'T', 'P', 'U', 'T']] => some .output
  | [.name ['G', 'E', 'O', 'M']] => some .geom
  | [.name ['R', 'D', 'C', 'E', 'L', 'L'], .num x, .comma, .num y] => some (.rdcell x y)
  | [.name ['D', 'R', 'A', 'W']] => some (.draw [])
  | .name ['D', 'R', 'A', 'W'] :: rest => (parsePixels rest).map SourceLine.draw
  | _ => none

/-- One line of text: the source lines it holds, none if it is empty, one otherwise; refused if it is not of R80's
syntax. -/
def parseLine (text : List Char) : Option (List SourceLine) :=
  (tokensFrom [] text).bind fun ts =>
    match ts with
    | [] => some []
    | _ :: _ => (parseTokens ts).map fun l => [l]

/-- Assemble a text given as its lines, one command a line (R80). -/
def assembleText : List (List Char) → Option (List Word)
  | [] => some []
  | line :: t =>
      (parseLine line).bind fun ls => (assemble ls).bind fun ws => (assembleText t).map fun rest => ws ++ rest

end Sys2Proof.Machine
end

