-- ==== Sys2Proof/Machine/Observe.lean ====
section
/-! DEFINITION. What can be seen from outside, as views that change nothing: the requests issued, the levels of the lines
(10_state.md R35), and the end of a run (70_reset_and_hazards.md R204). -/

namespace Sys2Proof.Machine

/-- The event the sequencer performs next: the one at its position (R30). -/
def State.nextEvent (s : State) : Option Event :=
  match s.seq with
  | .idle => none
  | .running k => eventAt s k

/-- The request a record entry is about. -/
def Issued.event : Issued → Event
  | .drive l v _ => .drive l v
  | .wait us => .wait us
  | .unanswered e => e

/-- Every line and delay request issued so far, oldest first (R204): those on record, and the one that is out. -/
def State.issued (s : State) : List Issued := s.record.reverse ++ s.outstanding.toList.map Issued.unanswered

/-- The level the environment gives a line (R35): the level of its last answered request if that answer was `ok`; a free
value after a `fail`, and before the line's first request. A request nobody answered changes no level (log 14). The list is
newest first. -/
def levelIn (l : Line) : List Issued → Level
  | [] => Config.initialLevel l.number
  | .drive l' v answer :: t =>
      if l' = l then (match answer with | .ok => v | .fail => Config.failedLevel t.length) else levelIn l t
  | .wait _ :: t => levelIn l t
  | .unanswered _ :: t => levelIn l t

/-- A line's level now (R35). -/
def State.lineLevel (s : State) (l : Line) : Level := levelIn l s.record

/-- Whether OE's level blanks the panel: OE 1 blanks, OE 0 unblanks (R141). -/
def State.blanked (s : State) : Bool := s.lineLevel .oe

/-- The host has no further command to offer (R204): none stands on the port and none is still to come. RST is no command,
so it does not count. -/
def State.hostDone (s : State) : Bool := !s.cmdValid && s.host.all (· == .quiet)

/-- A run has ended (R204): the host is done, and the block is idle or FAULTED. -/
def State.ended (s : State) : Bool := s.hostDone && (!s.busy || s.faulted)

/-- The final state of a run (R204), with the environment's record. -/
structure Final where
  configured : Bool
  bb : BitVec 4
  fb : Memory
  faulted : Bool
  err : Err
  resp : Word
  issued : List Issued
  deriving DecidableEq, Repr

/-- The tuple of R204. -/
def State.final (s : State) : Final :=
  { configured := s.configured, bb := s.bb, fb := s.fb, faulted := s.faulted, err := s.err, resp := s.resp,
    issued := s.issued }

/-- An event together with its answer, as the record holds it. -/
def Event.answered (answer : Answer) : Event → Issued
  | .drive l v => .drive l v answer
  | .wait us => .wait us

end Sys2Proof.Machine
end

