-- ==== Sys2Proof/Safety.lean ====
section
/-! DEFINITION. What holds of every state a run can reach (the invariant of the model, in the spec's terms), and runs of
many steps. -/

namespace Sys2Proof.Machine

/-- R26: while configured, `bb` is legal, and STEP and COUNT are the functions of it. -/
def State.ConfigOk (s : State) : Prop :=
  s.configured = true →
    1 ≤ s.bb.toNat ∧ s.bb.toNat ≤ 8 ∧ s.stepReg = stepOf s.bb ∧ s.countReg = countOf s.bb

/-- R30: a running sequencer is inside its trace; it runs only in a configured block (R172) that is not FAULTED (R175). -/
def State.SeqOk (s : State) : Prop :=
  ∀ k, s.seq = .running k → k < traceLength s ∧ s.configured = true ∧ s.faulted = false

/-- R171, R174, R176: FAULTED is 1 exactly when ERR holds a fatal code, and LINE_FAIL needs Propagate (R145). -/
def State.ErrOk (s : State) : Prop :=
  s.faulted = s.err.fatal ∧ (s.err = .lineFail → s.cfg.policy = .propagate)

/-- FB is canonical, and lists no index past `R*384 - 1` (R27, R52). -/
def State.FbOk (s : State) : Prop :=
  s.fb.wf = true ∧ s.fb.below (fbSize s.cfg.variant) = true

/-- A gamma output of an expanded channel value: 5-bit for red and blue, 6-bit for green (R96, R97). -/
def gammaOutput (cfg : Config) (ch : Nat) (v : Byte) : Prop :=
  if ch % 3 = 1 then ∃ e : BitVec 6, v = cfg.gamma.lookup (e6 cfg.expand e)
  else ∃ e : BitVec 5, v = cfg.gamma.lookup (e5 cfg.expand e)

/-- R28: while configured, every channel of every cell holds 0 or a gamma output. -/
def State.GammaOk (s : State) : Prop :=
  s.configured = true → ∀ h c ch, h < s.cfg.variant.rows → c < 64 → ch < 6 →
    s.channel h c ch = 0 ∨ gammaOutput s.cfg ch (s.channel h c ch)

/-- RESP's top byte is 0 after reset, GEOM and RDCELL alike (R25, R106, R107). -/
def State.RespOk (s : State) : Prop := s.resp.extractLsb' 24 8 = 0

/-- A request is one the build can issue: a drive of a line it has (R32), or a wait of DELAY_US (R134). -/
def Event.Possible (cfg : Config) : Event → Prop
  | .drive l _ => l.exists cfg.variant = true
  | .wait us => us = cfg.delayUs

/-- The environment's record holds requests of this build only (R32, R134, R142). -/
def State.RecordOk (s : State) : Prop := ∀ i ∈ s.record, i.event.Possible s.cfg

/-- A request that is out is the event at the position of a running sequencer (R30, R33, R34). -/
def State.OutstandingOk (s : State) : Prop := ∀ e, s.outstanding = some e → s.nextEvent = some e

/-- The invariant of the machine. -/
structure State.Inv (s : State) : Prop where
  config : s.ConfigOk
  seq : s.SeqOk
  err : s.ErrOk
  fb : s.FbOk
  gamma : s.GammaOk
  resp : s.RespOk
  record : s.RecordOk
  outstanding : s.OutstandingOk

/-- `n` steps of the machine, through the host's own interface. -/
def runFor (n : Nat) (s : State) : Host.Outcome State Fault Refusal := Sys2Proof.core.run n s

/-- A list of commands, one after the other, each accepted in the state the one before it left (R61). -/
def execAll : List Instr → State → Host.Outcome State Fault Refusal
  | [], s => .next s
  | i :: rest, s =>
    match exec i s with
    | .next t => execAll rest t
    | .fault r => .fault r
    | .refused r => .refused r

/-- No reset is asserted, now or later. -/
def State.noReset (s : State) : Bool := !s.rst && s.resets.all (! ·)

/-- The replies the line port must show for these events, if every drive is answered by `answer`, in order. -/
def lineRepliesFor (answer : Answer) (es : List Event) : List LineReply :=
  (es.filter Event.isDrive).map fun _ => some answer

/-- The replies the delay port must show for these events, if every wait is done at the first look. -/
def delayRepliesFor (es : List Event) : List DelayReply :=
  (es.filter fun e => !e.isDrive).map fun _ => DelayReply.done

end Sys2Proof.Machine
end

