-- ==== Sys2Proof/Certificates/Slice0/Obligations.lean ====
section
/-! DEFINITION. The statements for the provers, from the spec's rules. `R` below is `s.cfg.variant.rows`. A record update
`{ s with … }` as the state answered says the result and the whole frame at once: every field not named is unchanged. -/

open Sys2Proof Sys2Proof.Machine

/-! ## Encoding -/

/-- 30_encoding.md sections 1 to 3 (R70 to R78): the decoder reads back every operand of every command at every value
its field admits, and each legal word has one meaning. -/
def Obligations.DecodeEncodeAgree : Prop :=
  (∀ i : Instr, decode (encode i) = .command i) ∧
  (∀ (w : Word) (i : Instr), decode w = .command i → encode i = w)

/-- R79 (a rule the spec derives from R72 to R78): "Every 32-bit word decodes to exactly one of INIT, WRPIX, CLEAR,
OUTPUT, GEOM, RDCELL or Illegal", with the number of words of each kind. -/
def Obligations.WordsOfEachCommand : Prop :=
  Nat.card {w : Word // ∃ bb, decode w = .command (.init bb)} = 16 ∧
  Nat.card {w : Word // ∃ y x color, decode w = .command (.wrpix y x color)} = 2 ^ 28 ∧
  Nat.card {w : Word // decode w = .command .clear} = 1 ∧
  Nat.card {w : Word // decode w = .command .output} = 1 ∧
  Nat.card {w : Word // decode w = .command .geom} = 1 ∧
  Nat.card {w : Word // ∃ y x, decode w = .command (.rdcell y x)} = 2 ^ 12 ∧
  Nat.card {w : Word // ∃ why, decode w = .illegal why} = 2 ^ 32 - (16 + 2 ^ 28 + 3 + 2 ^ 12)

/-- R77: a row of the opcode map selects exactly the words that decode to its command, no two rows overlap, and a word
that matches no row is illegal. -/
def Obligations.OpcodeMapSelectsTheDecoding : Prop :=
  opcodeMap.map (fun r => (r.mnemonic, r.mask, r.pattern)) =
    [("INIT", 0xFFFFFFF0#32, 0x10000000#32), ("WRPIX", 0xF0000000#32, 0x20000000#32),
     ("CLEAR", 0xFFFFFFFF#32, 0x30000000#32), ("OUTPUT", 0xFFFFFFFF#32, 0x40000000#32),
     ("GEOM", 0xFFFFFFFF#32, 0x50000000#32), ("RDCELL", 0xF000FFFF#32, 0x60000000#32)] ∧
  (∀ r ∈ opcodeMap, ∀ w : Word, w &&& r.mask = r.pattern ↔ ∃ i, decode w = .command i ∧ i.mnemonic = r.mnemonic) ∧
  (∀ r ∈ opcodeMap, ∀ r' ∈ opcodeMap, ∀ w : Word, w &&& r.mask = r.pattern → w &&& r'.mask = r'.pattern → r = r') ∧
  (∀ w : Word, (∀ r ∈ opcodeMap, w &&& r.mask ≠ r.pattern) ↔ ∃ why, decode w = .illegal why)

/-- R78: which words are illegal, by which clause, and what accepting one does: the fatal ILLEGAL_COMMAND and nothing
else (the host's pins move on, as after every accepted command). -/
def Obligations.IllegalWordsFault : Prop :=
  (∀ w : Word, decode w = .illegal .reservedOpcode ↔ opField w = 0x0 ∨ (0x7 ≤ opField w ∧ opField w ≤ 0xF)) ∧
  (∀ w : Word, decode w = .illegal .nonzeroField ↔
    ((opField w = 0x3 ∨ opField w = 0x4 ∨ opField w = 0x5) ∧ w.extractLsb' 0 28 ≠ 0) ∨
    (opField w = 0x1 ∧ w.extractLsb' 4 24 ≠ 0) ∨
    (opField w = 0x6 ∧ w.extractLsb' 0 16 ≠ 0)) ∧
  decode 0x00000000#32 = .illegal .reservedOpcode ∧
  (∀ bb : BitVec 4, decode (0x10000000#32 ||| bb.setWidth 32) = .command (.init bb)) ∧
  (∀ (s : State) (why : Illegal), s.rst = false → s.seq = .idle → s.cmdValid = true → s.faulted = false →
    decode s.cmd = .illegal why → step s = .next { s.driveNext with err := .illegalCommand, faulted := true })

/-- 95_test_vectors.md L2-A: words written out from the formats of R72 to R75 decode to what they stand for. -/
def Obligations.WrittenOutWordsDecode : Prop :=
  decode 0b00010000000000000000000000001000#32 = .command (.init 8) ∧
  decode 0b00100101000001011111100000000000#32 = .command (.wrpix 20 5 0xF800) ∧
  decode 0b00101111111111111111111111111111#32 = .command (.wrpix 63 63 0xFFFF) ∧
  decode 0b00110000000000000000000000000000#32 = .command .clear ∧
  decode 0b01000000000000000000000000000000#32 = .command .output ∧
  decode 0b01010000000000000000000000000000#32 = .command .geom ∧
  decode 0b01100101000001010000000000000000#32 = .command (.rdcell 20 5) ∧
  decode 0b01100101000001010000000000000001#32 = .illegal .nonzeroField ∧
  decode 0b01110000000000000000000000000000#32 = .illegal .reservedOpcode

/-- 30_encoding.md section 4 (R80): a line whose operands fit assembles to words that decode to the line's commands, in
order; a line with an operand that does not fit is refused. -/
def Obligations.AssembledLinesDecode : Prop :=
  ∀ l : SourceLine,
    (l.wellFormed = true →
      ∃ ws, assembleLine l = some ws ∧ ws.map decode = (lineCommands l).map Decoded.command) ∧
    (l.wellFormed = false → assembleLine l = none)

/-- 30_encoding.md section 4 (R80, of DRAW): "If one expanded WRPIX faults, the pixels before it stay written and the
ones after it have no effect". -/
def Obligations.DrawStopsAtTheFaultingPixel : Prop :=
  ∀ (s : State) (before after : List Pixel) (p : Pixel),
    s.faulted = false → s.configured = true →
    (∀ q ∈ before, q.y < s.cfg.variant.height) → s.cfg.variant.height ≤ p.y → p.y ≤ 63 →
    ∃ t, execAll (lineCommands (.draw before)) s = .next t ∧
      execAll (lineCommands (.draw (before ++ p :: after))) s = .next { t with err := .outOfBounds, faulted := true }

/-! ## Acceptance -/

/-- 10_state.md section 3 (R23): a step with RST low, SEQ idle and an offered legal word is that word's command, run
in the state where the host's pins have moved to what the host drives next; nothing else has changed in that state. -/
def Obligations.StepRunsDecodedCommand : Prop :=
  ∀ (s : State) (i : Instr), s.rst = false → s.seq = .idle → s.cmdValid = true → decode s.cmd = .command i →
    step s = exec i s.driveNext ∧
    s.driveNext = { s with cmd := s.driveNext.cmd, cmdValid := s.driveNext.cmdValid, rst := s.driveNext.rst,
                           host := s.host.tail, resets := s.resets.tail }

/-- R172: the order of the checks for one accepted command, and no check at all for a command offered while BUSY: the step
is the sequencer's. The host's pins move or hold as in every step (log 8). -/
def Obligations.ChecksRunInOrder : Prop :=
  ∀ s : State, s.rst = false → s.cmdValid = true →
    (s.seq = .idle →
      (s.faulted = true → step s = .next s.driveNext) ∧
      (s.faulted = false → ∀ why, decode s.cmd = .illegal why →
        step s = .next { s.driveNext with err := .illegalCommand, faulted := true }) ∧
      (s.faulted = false → s.configured = false →
        ∀ i, decode s.cmd = .command i → (∀ bb, i ≠ .init bb) → i ≠ .geom →
        step s = .next { s.driveNext with err := .notConfigured, faulted := true }) ∧
      (s.faulted = false → ∀ bb : BitVec 4, decode s.cmd = .command (.init bb) → (bb.toNat < 1 ∨ 8 < bb.toNat) →
        step s = .next { s.driveNext with err := .configRange, faulted := true }) ∧
      (s.faulted = false → s.configured = true →
        ∀ y x : BitVec 6,
          ((∃ color, decode s.cmd = .command (.wrpix y x color)) ∨ decode s.cmd = .command (.rdcell y x)) →
          2 * s.cfg.variant.rows ≤ y.toNat →
          step s = .next { s.driveNext with err := .outOfBounds, faulted := true }) ∧
      (s.faulted = false → s.configured = true → decode s.cmd = .command .output →
        step s = .next { s.driveNext with seq := .running 0 })) ∧
    (∀ k, s.seq = .running k → step s = seqStep k s.hold)

/-- 10_state.md section 3 (R23): CMD_READY is NOT BUSY; a command offered while BUSY is held and has no effect (any
other word in its place gives the same step); with none offered an idle block does nothing; and an accepted command
other than OUTPUT is complete before the next can be accepted. -/
def Obligations.OfferIsHeldWhileBusy : Prop :=
  (∀ s : State, s.cmdReady = !s.busy) ∧
  (∀ (s t : State) (w : Word), s.rst = false → s.busy = true → s.cmdValid = true → step s = .next t →
    t.cmd = s.cmd ∧ t.cmdValid = true ∧ t.host = s.host ∧ step { s with cmd := w } = .next { t with cmd := w }) ∧
  (∀ s : State, s.rst = false → s.cmdReady = true → s.cmdValid = false → step s = .next s.driveNext) ∧
  (∀ (s : State) (i : Instr), s.rst = false → s.cmdReady = true → s.cmdValid = true → decode s.cmd = .command i →
    i ≠ .output → ∃ t, step s = .next t ∧ t.cmdReady = true)

/-! ## The six commands -/

/-- R103: INIT with `bb` in 1..8 configures and zeroes the buffer, and nothing else changes; with any other `bb` it
raises CONFIG_RANGE and writes nothing else. The last clause is the rule's example. -/
def Obligations.InitConfiguresAndZeroes : Prop :=
  (∀ (s : State) (bb : BitVec 4), s.faulted = false → 1 ≤ bb.toNat → bb.toNat ≤ 8 →
    ∃ t, exec (.init bb) s = .next t ∧
      t = { s with bb := bb, stepReg := BitVec.ofNat 8 (2 ^ (8 - bb.toNat)),
                   countReg := BitVec.ofNat 8 (2 ^ bb.toNat - 1), configured := true, err := .none, fb := t.fb } ∧
      ∀ a, t.fb.read a = 0) ∧
  (∀ (s : State) (bb : BitVec 4), s.faulted = false → (bb.toNat = 0 ∨ 9 ≤ bb.toNat) →
    exec (.init bb) s = .next { s with err := .configRange, faulted := true }) ∧
  (∀ s t : State, s.faulted = false → s.seq = .idle → s.cfg.variant = .standard → s.cfg.policy = .propagate →
    exec (.init 4) s = .next t → t.stepReg = 16 ∧ t.countReg = 15 ∧ statusWord t = 0x00000402#32)

/-- R104: WRPIX in a configured block stores the ingested colour in the pixel's three channels and leaves every other
index of FB and every other field unchanged; `y >= 2*R` is the fatal OUT_OF_BOUNDS, and an unconfigured block the
fatal NOT_CONFIGURED. The ingested colour is R97's function of R91's fields (their placement is general knowledge that
the spec takes up, log 21), in every build. Premise: FB is canonical, as `Obligations.StepKeepsInvariant` has it of
every run. The last clauses are the rule's own colours (0, 0xFFFF, 0x0841 with GAMMA28, log 21, and the example's
0xF800) through this hardware's colour path. -/
def Obligations.WrpixStoresOneTriple : Prop :=
  (∀ (s : State) (y x : BitVec 6) (color : BitVec 16), s.faulted = false →
    (s.configured = true → y.toNat < 2 * s.cfg.variant.rows → s.fb.wf = true →
      ∃ t, exec (.wrpix y x color) s = .next t ∧ t = { s with err := .none, fb := t.fb } ∧
        t.channel (y.toNat % s.cfg.variant.rows) x.toNat (if s.cfg.variant.rows ≤ y.toNat then 3 else 0) =
          (ingest s.cfg color).red ∧
        t.channel (y.toNat % s.cfg.variant.rows) x.toNat (if s.cfg.variant.rows ≤ y.toNat then 4 else 1) =
          (ingest s.cfg color).green ∧
        t.channel (y.toNat % s.cfg.variant.rows) x.toNat (if s.cfg.variant.rows ≤ y.toNat then 5 else 2) =
          (ingest s.cfg color).blue ∧
        ∀ a, (∀ j, j < 3 → a ≠ fbIndex (y.toNat % s.cfg.variant.rows) x.toNat
              ((if s.cfg.variant.rows ≤ y.toNat then 3 else 0) + j)) →
          t.fb.read a = s.fb.read a) ∧
    (s.configured = true → 2 * s.cfg.variant.rows ≤ y.toNat →
      exec (.wrpix y x color) s = .next { s with err := .outOfBounds, faulted := true }) ∧
    (s.configured = false → exec (.wrpix y x color) s = .next { s with err := .notConfigured, faulted := true })) ∧
  (∀ (cfg : Config) (color : BitVec 16),
    ingest cfg color =
      { red := cfg.gamma.lookup (e5 cfg.expand (color.extractLsb' 11 5))
        green := cfg.gamma.lookup (e6 cfg.expand (color.extractLsb' 5 6))
        blue := cfg.gamma.lookup (e5 cfg.expand (color.extractLsb' 0 5)) }) ∧
  ingest Config.thisBuild 0x0000#16 = { red := 0, green := 0, blue := 0 } ∧
  ingest Config.thisBuild 0xFFFF#16 = { red := 255, green := 255, blue := 255 } ∧
  ingest Config.thisBuild 0x0841#16 = { red := 0, green := 0, blue := 0 } ∧
  ingest Config.thisBuild 0xF800#16 = { red := 255, green := 0, blue := 0 }

/-- R105: CLEAR in a configured block zeroes every channel and leaves every other field unchanged but ERR; every RDCELL
after it answers 0. An unconfigured block raises NOT_CONFIGURED. -/
def Obligations.ClearZeroesEveryChannel : Prop :=
  ∀ s : State, s.faulted = false →
    (s.configured = true →
      ∃ t, exec .clear s = .next t ∧ t = { s with err := .none, fb := t.fb } ∧ (∀ a, t.fb.read a = 0) ∧
        ∀ y x : BitVec 6, y.toNat < 2 * s.cfg.variant.rows →
          exec (.rdcell y x) t = .next { t with resp := 0x00000000#32 }) ∧
    (s.configured = false → exec .clear s = .next { s with err := .notConfigured, faulted := true })

/-- R106: RDCELL in a configured block puts the stored triple into RESP and changes nothing else but ERR. The last
clause is the rule's example, on 64x32. -/
def Obligations.RdcellReadsTheTriple : Prop :=
  (∀ (s : State) (y x : BitVec 6), s.faulted = false →
    (s.configured = true → y.toNat < 2 * s.cfg.variant.rows →
      exec (.rdcell y x) s = .next { s with
        err := .none
        resp := 0x00#8 ++
          s.channel (y.toNat % s.cfg.variant.rows) x.toNat (if s.cfg.variant.rows ≤ y.toNat then 3 else 0) ++
          s.channel (y.toNat % s.cfg.variant.rows) x.toNat (if s.cfg.variant.rows ≤ y.toNat then 4 else 1) ++
          s.channel (y.toNat % s.cfg.variant.rows) x.toNat (if s.cfg.variant.rows ≤ y.toNat then 5 else 2) }) ∧
    (s.configured = true → 2 * s.cfg.variant.rows ≤ y.toNat →
      exec (.rdcell y x) s = .next { s with err := .outOfBounds, faulted := true }) ∧
    (s.configured = false → exec (.rdcell y x) s = .next { s with err := .notConfigured, faulted := true }) ∧
    (∀ low : BitVec 16, low ≠ 0 → decode (0x6#4 ++ y ++ x ++ low) = .illegal .nonzeroField)) ∧
  (∀ s : State, s.cfg = Config.thisBuild → s.faulted = false → s.configured = true → s.fb.wf = true →
    ∃ t, execAll [.wrpix 20 5 0xF800, .rdcell 20 5] s = .next t ∧ t.resp = 0x00FF0000#32)

/-- R107: GEOM reports height and width, configured or not, and changes nothing else but ERR. -/
def Obligations.GeomReportsTheGeometry : Prop :=
  ∀ s : State, s.faulted = false →
    exec .geom s = .next { s with
      err := .none, resp := BitVec.ofNat 16 (2 * s.cfg.variant.rows) ++ BitVec.ofNat 16 64 } ∧
    (s.cfg.variant = .standard → BitVec.ofNat 16 (2 * s.cfg.variant.rows) ++ BitVec.ofNat 16 64 = 0x00200040#32) ∧
    (s.cfg.variant = .double → BitVec.ofNat 16 (2 * s.cfg.variant.rows) ++ BitVec.ofNat 16 64 = 0x00400040#32)

/-- 41_output_scan.md section 1 (R130, the accept step): OUTPUT in a configured block starts the sequencer at event 0,
with the trace of the FB, STEP, COUNT and R it is accepted with; ERR and everything else stay. An unconfigured block
raises NOT_CONFIGURED, and no event is issued. -/
def Obligations.OutputStartsTheSequencer : Prop :=
  ∀ s : State, s.faulted = false →
    (s.configured = true →
      ∃ t, exec .output s = .next t ∧ t = { s with seq := .running 0 } ∧ t.busy = true ∧ t.cmdReady = false ∧
        t.nextEvent = (scanTrace s)[0]?) ∧
    (s.configured = false → exec .output s = .next { s with err := .notConfigured, faulted := true })

/-- 95_test_vectors.md L1-E6, from R97, R104 and R106: writing a pixel and reading it back yields the ingested colour.
-/
def Obligations.WriteThenReadBack : Prop :=
  ∀ (s : State) (y x : BitVec 6) (color : BitVec 16), s.faulted = false → s.configured = true → s.fb.wf = true →
    y.toNat < 2 * s.cfg.variant.rows →
    ∃ t u, exec (.wrpix y x color) s = .next t ∧ exec (.rdcell y x) t = .next u ∧
      u.resp = 0x00#8 ++ (ingest s.cfg color).red ++ (ingest s.cfg color).green ++ (ingest s.cfg color).blue ∧
      u.fb = t.fb

/-- 20_memory.md section 1 (R51, its bijection derived there): the pixel map, its bijection with the triples of the
cells, and the two halves of one cell. -/
def Obligations.PixelMapIsABijection : Prop :=
  ∀ v : Variant,
    (∀ x y : Nat, placeOf v x y = { h := y % v.rows, c := x, bottom := decide (y ≥ v.rows) }) ∧
    (∀ (h c : Nat) (bottom : Bool), h < v.rows → c < 64 →
      ∃! p : Nat × Nat, p.1 < 64 ∧ p.2 < 2 * v.rows ∧ placeOf v p.1 p.2 = { h := h, c := c, bottom := bottom }) ∧
    (∀ x y : Nat, y < v.rows →
      (placeOf v x (y + v.rows)).h = (placeOf v x y).h ∧ (placeOf v x (y + v.rows)).c = (placeOf v x y).c ∧
      (placeOf v x y).bottom = false ∧ (placeOf v x (y + v.rows)).bottom = true) ∧
    firstChannel false = 0 ∧ firstChannel true = 3

/-- 20_memory.md section 2 (R57): a command other than OUTPUT, done twice, leaves the same state as once. -/
def Obligations.CommandsAreIdempotent : Prop :=
  ∀ (s t : State) (i : Instr), s.fb.wf = true → i ≠ .output → exec i s = .next t → exec i t = .next t

/-! ## The colour path -/

/-- R92 and R93: bit replication, in both forms the rules give. -/
def Obligations.ReplicateExpands : Prop :=
  (∀ v : BitVec 5, (e5 .replicate v).toNat = ((v.toNat <<< 3) ||| (v.toNat >>> 2)) ∧
    (e5 .replicate v).toNat = 8 * v.toNat + v.toNat / 4) ∧
  (∀ v : BitVec 6, (e6 .replicate v).toNat = ((v.toNat <<< 2) ||| (v.toNat >>> 4)) ∧
    (e6 .replicate v).toNat = 4 * v.toNat + v.toNat / 16)

/-- 40_frame_buffer.md section 2 (R94, its list derived there): rounded scaling, and exactly where it differs from
replication. -/
def Obligations.RoundScaleDiffersAtFourteenInputs : Prop :=
  (∀ v : BitVec 5, (e5 .roundScale v).toNat = (v.toNat * 255 + 15) / 31) ∧
  (∀ v : BitVec 6, (e6 .roundScale v).toNat = (v.toNat * 255 + 31) / 63) ∧
  (∀ v : BitVec 5, (v.toNat, (e5 .replicate v).toNat, (e5 .roundScale v).toNat) ∈
      [(3, 24, 25), (7, 57, 58), (24, 198, 197), (28, 231, 230)] ∨
    (e5 .replicate v = e5 .roundScale v ∧ v.toNat ∉ [3, 7, 24, 28])) ∧
  (∀ v : BitVec 6, (v.toNat, (e6 .replicate v).toNat, (e6 .roundScale v).toNat) ∈
      [(11, 44, 45), (12, 48, 49), (13, 52, 53), (14, 56, 57), (15, 60, 61), (48, 195, 194), (49, 199, 198),
       (50, 203, 202), (51, 207, 206), (52, 211, 210)] ∨
    (e6 .replicate v = e6 .roundScale v ∧ v.toNat ∉ [11, 12, 13, 14, 15, 48, 49, 50, 51, 52]))

/-- 40_frame_buffer.md sections 2 and 5 (R95, derived there, and R104's corner cases): under either rule the
expansions are strictly increasing, so with a legal gamma table the all-zero colour stores 0 and the all-one colour
stores 255 in every channel. -/
def Obligations.ExtremeColoursAreStoredExactly : Prop :=
  (∀ (rule : ExpandRule) (v w : BitVec 5), v.toNat < w.toNat → (e5 rule v).toNat < (e5 rule w).toNat) ∧
  (∀ (rule : ExpandRule) (v w : BitVec 6), v.toNat < w.toNat → (e6 rule v).toNat < (e6 rule w).toNat) ∧
  (∀ cfg : Config, cfg.Legal →
    ingest cfg 0x0000#16 = { red := 0, green := 0, blue := 0 } ∧
    ingest cfg 0xFFFF#16 = { red := 255, green := 255, blue := 255 })

/-- 40_frame_buffer.md section 3 and 93_implementation_defined.md I1 (R100, general knowledge there; log 21): the ROM's
entries are `floor(255 * (i/255)^2.8 + 0.5)`, over the reals. -/
def Obligations.GammaRomIsGammaTwoPointEight : Prop :=
  ∀ i : Nat, i < 256 →
    (gamma28.lookup (BitVec.ofNat 8 i)).toNat = ⌊(255 : ℝ) * ((i : ℝ) / 255) ^ ((28 : ℝ) / 10) + 1 / 2⌋₊

/-- 40_frame_buffer.md section 3 (R101): the properties every gamma table must have, of this hardware's ROM (log 21);
item 4 with whatever tolerance (log 19). -/
def Obligations.GammaRomIsLegal : Prop :=
  (∀ v : Nat, v ≤ 254 → (gamma28.lookup (BitVec.ofNat 8 v)).toNat ≤ (gamma28.lookup (BitVec.ofNat 8 (v + 1))).toNat) ∧
  gamma28.lookup 0 = 0 ∧ gamma28.lookup 255 = 255 ∧ gamma28.lookup 127 = 36 ∧ gamma28.MidTone

/-- 40_frame_buffer.md section 6 (R108, derived there; GAMMA28: log 21): the red, green and blue values that the
colours of this hardware's WRPIX are stored as; 128 is none of them. -/
def Obligations.StorableValues : Prop :=
  let fiveBit := [0, 1, 2, 3, 4, 6, 8, 11, 14, 18, 22, 27, 33, 40, 48, 56, 64, 75, 86, 98, 110, 126, 140, 156, 173, 193, 213,
    233, 255]
  let sixBit := [0, 1, 2, 3, 4, 6, 7, 8, 9, 10, 12, 13, 15, 17, 19, 21, 24, 26, 29, 32, 35, 39, 42, 46, 50, 54, 58, 62, 67,
    72, 77, 82, 87, 93, 99, 105, 112, 120, 127, 135, 142, 150, 158, 167, 175, 184, 193, 203, 213, 223, 233, 244, 255]
  (∀ b : Byte, (∃ color, (ingest Config.thisBuild color).red = b) ↔ b.toNat ∈ fiveBit) ∧
  (∀ b : Byte, (∃ color, (ingest Config.thisBuild color).green = b) ↔ b.toNat ∈ sixBit) ∧
  (∀ b : Byte, (∃ color, (ingest Config.thisBuild color).blue = b) ↔ b.toNat ∈ fiveBit) ∧
  (∀ color : BitVec 16, (ingest Config.thisBuild color).red ≠ 128 ∧ (ingest Config.thisBuild color).green ≠ 128 ∧
    (ingest Config.thisBuild color).blue ≠ 128)

/-! ## Errors, registers, reset -/

/-- R174: whenever FAULTED rises, it is in the step that accepts a command, and that step writes ERR and FAULTED and
nothing else of the block, and issues no request. -/
def Obligations.FatalEntryWritesErrAndFaultedOnly : Prop :=
  ∀ s t : State, step s = .next t → s.faulted = false → t.faulted = true →
    s.rst = false ∧ s.seq = .idle ∧ s.cmdValid = true ∧
    ∃ code : Err, code ∈ [.configRange, .outOfBounds, .illegalCommand, .notConfigured] ∧
      t = { s.driveNext with err := code, faulted := true }

/-- R175: while FAULTED, CMD_READY is 1, a command offered is accepted and discarded, every field of the block keeps its
value, no request is issued, and STATUS reads as before. Premise: the invariant, which has a FAULTED block idle. -/
def Obligations.FaultedDiscardsEveryCommand : Prop :=
  ∀ s : State, s.Inv → s.faulted = true → s.rst = false →
    s.cmdReady = true ∧
    ∃ t, step s = .next t ∧
      t = { s with cmd := t.cmd, cmdValid := t.cmdValid, rst := t.rst, host := s.host.tail,
                   resets := s.resets.tail } ∧
      t.cmdValid = s.driveNext.cmdValid ∧ statusWord t = statusWord s

/-- 10_state.md section 8 (R36): FAULTED is sticky: along every run without a reset it stays, and the final tuple of
R204 stays with it. -/
def Obligations.FaultedIsSticky : Prop :=
  ∀ (n : Nat) (s : State), s.Inv → s.faulted = true → s.noReset = true →
    ∃ t, runFor n s = .next t ∧ t.faulted = true ∧ t.final = s.final ∧ statusWord t = statusWord s

/-- R25: but for a reset, which makes it 0, RESP changes only in a step that accepts GEOM or RDCELL and succeeds. -/
def Obligations.RespIsWrittenByGeomAndRdcellOnly : Prop :=
  State.reset.resp = 0 ∧
  (∀ s t : State, step s = .next t → s.rst = true → t.resp = 0) ∧
  (∀ s t : State, step s = .next t → s.rst = false → t.resp ≠ s.resp →
    s.seq = .idle ∧ s.cmdValid = true ∧ t.faulted = false ∧
    (decode s.cmd = .command .geom ∨ ∃ y x, decode s.cmd = .command (.rdcell y x)))

/-- 10_state.md section 4 (R26): but for a reset, CONFIGURED, `bb`, STEP and COUNT change only in a step that accepts a
legal INIT, which writes all of them together. -/
def Obligations.ConfigurationIsWrittenByInitOnly : Prop :=
  ∀ s t : State, step s = .next t → s.rst = false →
    (t.configured ≠ s.configured ∨ t.bb ≠ s.bb ∨ t.stepReg ≠ s.stepReg ∨ t.countReg ≠ s.countReg) →
    s.seq = .idle ∧ s.cmdValid = true ∧
    ∃ bb : BitVec 4, decode s.cmd = .command (.init bb) ∧ 1 ≤ bb.toNat ∧ bb.toNat ≤ 8 ∧ t.configured = true ∧
      t.bb = bb ∧ t.stepReg.toNat = 2 ^ (8 - bb.toNat) ∧ t.countReg.toNat = 2 ^ bb.toNat - 1

/-- 10_state.md section 9 (R37): what `bb`, STEP, COUNT and FB hold while CONFIGURED = 0 is read by no rule: a step
from a state that differs in them alone is the same step, up to them, with the same STATUS. So nothing seen rests on
the values that logs 2 and 3 name. -/
def Obligations.UnconfiguredValuesAreNotRead : Prop :=
  ∀ (s t : State) (bb : BitVec 4) (st ct : Byte) (fb : Memory), s.configured = false → s.seq = .idle →
    step s = .next t →
    ∃ t', step { s with bb := bb, stepReg := st, countReg := ct, fb := fb } = .next t' ∧
      (t' = t ∨ t' = { t with bb := bb, stepReg := st, countReg := ct, fb := fb }) ∧
      statusWord t' = statusWord t

/-- 70_reset_and_hazards.md section 1 (R190): a reset sets the block's state in one step, abandons a running OUTPUT,
issues nothing, keeps the build, and is the only way to clear FAULTED. Of FB, `bb`, STEP and COUNT, which R190 leaves
unspecified, it says nothing. That the requests issued so far, the abandoned one among them, survive a reset is the
model's choice (log 13). -/
def Obligations.ResetSetsTheBlock : Prop :=
  (∀ s : State, s.rst = true →
    ∃ t, step s = .next t ∧ t.configured = false ∧ t.faulted = false ∧ t.err = .none ∧ t.busy = false ∧
      t.seq = .idle ∧ t.resp = 0 ∧ t.cmdReady = true ∧ t.cfg = s.cfg ∧ t.issued = s.issued ∧ t.outstanding = none) ∧
  (∀ s t : State, step s = .next t → s.faulted = true → t.faulted = false → s.rst = true) ∧
  (State.reset.configured = false ∧ State.reset.faulted = false ∧ State.reset.err = .none ∧
    State.reset.busy = false ∧ State.reset.seq = .idle ∧ State.reset.resp = 0 ∧ State.reset.cmdReady = true)

/-- 40_frame_buffer.md section 2 and 70_reset_and_hazards.md section 1 (R99, R192): a step that resets the block, accepts
a command or finds nothing to do issues no request, looks at no port, and changes no line's level; at power-up every
line has the level the environment gives it, a free value. That the requests issued so far survive a reset is the
model's choice (log 13), and so is that a drawn level, and the level of a line whose drive a reset abandons, stays as
it is (log 14). -/
def Obligations.OnlyTheSequencerDrivesLines : Prop :=
  (∀ s t : State, step s = .next t → (s.rst = true ∨ s.seq = .idle) →
    t.issued = s.issued ∧ t.lineScript = s.lineScript ∧ t.delayScript = s.delayScript ∧ t.draws = s.draws ∧
    ∀ l, t.lineLevel l = s.lineLevel l) ∧
  (∀ l, State.reset.lineLevel l = Config.initialLevel l.number)

/-- 10_state.md section 3 (R24) and 60_exceptions.md section 1 (R171): the STATUS layout, the number of each error
code, and when ERR is written. -/
def Obligations.StatusLayoutAndErrUpdates : Prop :=
  (∀ s : State,
    (statusWord s).getLsbD 0 = s.busy ∧ (statusWord s).getLsbD 1 = s.configured ∧
    (statusWord s).getLsbD 2 = s.faulted ∧ (statusWord s).getLsbD 3 = false ∧
    (statusWord s).extractLsb' 4 4 = s.err.code ∧
    (statusWord s).extractLsb' 8 4 = (if s.configured = true then s.bb else 0) ∧
    (statusWord s).getLsbD 12 = decide (s.cfg.variant = .double) ∧
    (statusWord s).getLsbD 13 = decide (s.cfg.policy = .bestEffort) ∧
    (statusWord s).extractLsb' 14 18 = 0) ∧
  (Err.code .none = 0 ∧ Err.code .configRange = 1 ∧ Err.code .lineFail = 2 ∧ Err.code .outOfBounds = 3 ∧
    Err.code .illegalCommand = 4 ∧ Err.code .notConfigured = 5) ∧
  (∀ s t : State, s.Inv → s.rst = false → step s = .next t →
    (s.faulted = true → t.err = s.err) ∧
    (∀ i, s.faulted = false → s.seq = .idle → s.cmdValid = true → decode s.cmd = .command i → i ≠ .output →
      (t.faulted = false ∧ t.err = .none) ∨ (t.faulted = true ∧ t.err.fatal = true)) ∧
    (s.seq = .idle → s.cmdValid = true → decode s.cmd = .command .output → t.faulted = false → t.err = s.err) ∧
    (s.busy = true → t.busy = true → t.err = s.err) ∧
    (s.busy = true → t.busy = false → t.err = .none ∨ t.err = .lineFail)) ∧
  statusWord State.reset = 0

/-- R3: the two build-time options, and every other build parameter, never change at run time. -/
def Obligations.BuildNeverChanges : Prop :=
  ∀ s t : State, step s = .next t → t.cfg = s.cfg

/-! ## The invariant -/

/-- The reset state meets the invariant of the model (R26, R27, R28, R30, R171; the values of logs 1 to 3). -/
def Obligations.InvariantHoldsAtReset : Prop := State.reset.Inv

/-- 10_state.md R26 to R30, 60_exceptions.md R171 and R174 to R176, 10_state.md R32: every step keeps the invariant
(configuration legal and its constants derived from it, the sequencer inside its trace, FAULTED with its code, FB
canonical and in range and holding gamma outputs only, RESP's top byte 0, the record of this build's requests only).
-/
def Obligations.StepKeepsInvariant : Prop :=
  ∀ s t : State, s.Inv → step s = .next t → t.Inv

/-- 60_exceptions.md R174 to R176, 70_reset_and_hazards.md R194: in a state that meets the invariant the machine does
not stop: every error is a state, and a request without an answer is waited for. -/
def Obligations.MachineNeverStops : Prop :=
  ∀ s : State, s.Inv → ∃ t, step s = .next t

/-! ## The trace -/

/-- 10_state.md section 6 (R31, derived there): the counter-based sequencer computes exactly the events of R132's
trace, in the same order, and its length is R148's. -/
def Obligations.CountersIssueTheTrace : Prop :=
  ∀ s : State, traceLength s = (scanTrace s).length ∧ ∀ k, eventAt s k = (scanTrace s)[k]?

/-- 10_state.md section 6 (R31): the counters start at the first column (or at the final blank, were COUNT 0) and
advance with the event index: `c` fastest, then the row tail, then `r`, then `i`, and the final blank last. -/
def Obligations.CountersAdvanceWithTheIndex : Prop :=
  ∀ s : State,
    (0 < s.countReg.toNat → position s 0 = some (.column 0 0 0 0)) ∧
    (∀ k, position s (k + 1) = (position s k).bind (Position.succ s)) ∧
    (∀ k i r c m, position s k = some (.column i r c m) →
      i < s.countReg.toNat ∧ r < s.cfg.variant.rows ∧ c < 64 ∧ m < 8 ∧
      k = (i * s.cfg.variant.rows + r) * (519 + s.cfg.variant.naddr) + 8 * c + m)

/-- 41_output_scan.md section 4 and 70_reset_and_hazards.md section 4 (R147, R148, R203, derived there): how many
events, drives, waits and clock pulses a trace has, and the least time its waits take. -/
def Obligations.TraceCounts : Prop :=
  ∀ s : State,
    (scanTrace s).length = s.countReg.toNat * s.cfg.variant.rows * (519 + s.cfg.variant.naddr) + 1 ∧
    ((scanTrace s).filter Event.isDrive).length =
      s.countReg.toNat * s.cfg.variant.rows * (516 + s.cfg.variant.naddr) + 1 ∧
    ((scanTrace s).filter fun e => !e.isDrive).length = 3 * s.countReg.toNat * s.cfg.variant.rows ∧
    ((scanTrace s).filter fun e => decide (e = .drive .clk true)).length =
      64 * s.countReg.toNat * s.cfg.variant.rows ∧
    ((scanTrace s).map Event.waitUs).sum = 3 * s.countReg.toNat * s.cfg.variant.rows * s.cfg.delayUs

/-- R131 and R133: at column `c` of row `r` in sub-frame `i` the six colour lines are driven in channel order, each to 1
exactly when its stored value is at least the threshold, and then CLK is driven 1 and 0. -/
def Obligations.ColumnComparesAndPulses : Prop :=
  ∀ (s : State) (i r c : Nat), i < s.countReg.toNat → r < s.cfg.variant.rows → c < 64 →
    let base := (i * s.cfg.variant.rows + r) * (519 + s.cfg.variant.naddr) + 8 * c
    (∀ ch, ch < 6 → ∃ l v, (scanTrace s)[base + ch]? = some (.drive l v) ∧ l.number = ch ∧
      (v = true ↔ min ((i + 1) * s.stepReg.toNat) 255 ≤ (s.channel r c ch).toNat)) ∧
    (scanTrace s)[base + 6]? = some (.drive .clk true) ∧ (scanTrace s)[base + 7]? = some (.drive .clk false)

/-- R134: the row tail: blank, wait, latch low, wait, latch high, the address drives, wait, unblank. -/
def Obligations.RowTailLatchesAndAddresses : Prop :=
  ∀ (s : State) (i r : Nat), i < s.countReg.toNat → r < s.cfg.variant.rows →
    let base := (i * s.cfg.variant.rows + r) * (519 + s.cfg.variant.naddr) + 512
    (scanTrace s)[base]? = some (.drive .oe true) ∧
    (scanTrace s)[base + 1]? = some (.wait s.cfg.delayUs) ∧
    (scanTrace s)[base + 2]? = some (.drive .lat false) ∧
    (scanTrace s)[base + 3]? = some (.wait s.cfg.delayUs) ∧
    (scanTrace s)[base + 4]? = some (.drive .lat true) ∧
    (∀ j, j < s.cfg.variant.naddr → (scanTrace s)[base + 5 + j]? = (addressEvents s.cfg.variant r)[j]?) ∧
    (scanTrace s)[base + 5 + s.cfg.variant.naddr]? = some (.wait s.cfg.delayUs) ∧
    (scanTrace s)[base + 6 + s.cfg.variant.naddr]? = some (.drive .oe false)

/-- R135: half-row `r` drives one address line per bit of `r`, in the order A, B, C, D, F (line numbers 6 to 10), F
only when R = 32; the rule's example is row 9. -/
def Obligations.AddressLinesCarryTheRow : Prop :=
  (∀ (v : Variant) (r : Nat), r < v.rows →
    (addressEvents v r).length = v.naddr ∧ v.rows = 2 ^ v.naddr ∧
    ∀ j, j < v.naddr → ∃ l, l.number = 6 + j ∧ (addressEvents v r)[j]? = some (.drive l (decide (r / 2 ^ j % 2 = 1)))) ∧
  addressEvents .standard 9 = [.drive .a true, .drive .b false, .drive .c false, .drive .d true]

/-- R142: the trace uses the F line only when R = 32. -/
def Obligations.FLineOnlyInTheDoubleVariant : Prop :=
  ∀ s : State,
    (s.cfg.variant = .standard → ∀ e ∈ scanTrace s, ∀ v, e ≠ .drive .f v) ∧
    (s.cfg.variant = .double → 0 < s.countReg.toNat → ∃ v, .drive .f v ∈ scanTrace s)

/-- 41_output_scan.md section 2 (R139, derived there): `Drive(OE, 0)` occurs exactly once per row per sub-frame, as
the last event of the row tail, after that tail's latch pulse, and nowhere else. -/
def Obligations.UnblankOncePerRow : Prop :=
  ∀ (s : State) (k : Nat),
    ((scanTrace s)[k]? = some (.drive .oe false) ↔
      ∃ q, q < rowCount s ∧ k + 1 = (q + 1) * rowLength s.cfg.variant) ∧
    ((scanTrace s)[k]? = some (.drive .oe false) →
      ∃ j, j < k ∧ k < j + 12 ∧ (scanTrace s)[j]? = some (.drive .lat false) ∧
        (scanTrace s)[j + 2]? = some (.drive .lat true))

/-- 41_output_scan.md section 2 (R138, derived there): an address or latch drive comes after a `Drive(OE, 1)` with no
OE, clock or colour drive between the two: it happens while the panel is blanked. -/
def Obligations.AddressChangesOnlyWhileBlanked : Prop :=
  ∀ (s : State) (k : Nat) (l : Line) (v : Level), l ∈ [.lat, .a, .b, .c, .d, .f] →
    (scanTrace s)[k]? = some (.drive l v) →
    ∃ j, j < k ∧ (scanTrace s)[j]? = some (.drive .oe true) ∧
      ∀ m, j < m → m < k → ∀ l' v', (scanTrace s)[m]? = some (.drive l' v') →
        l' ∉ [.oe, .clk, .r1, .g1, .b1, .r2, .g2, .b2]

/-- R140: the final blank is the last event of the trace, right after the unblank of the last row tail; and
(41_output_scan.md section 2, R143) the trace has no prologue: it begins with R1's drive, and drives no OE, LAT or
address line before the first row tail. -/
def Obligations.TraceBeginsAndEnds : Prop :=
  ∀ s : State,
    (scanTrace s).getLast? = some (.drive .oe true) ∧
    (0 < s.countReg.toNat →
      (scanTrace s)[(scanTrace s).length - 2]? = some (.drive .oe false) ∧
      (scanTrace s)[0]? = some (.drive .r1 (decide (s.stepReg.toNat ≤ (s.channel 0 0 0).toNat))) ∧
      ∀ k l v, k < 512 → (scanTrace s)[k]? = some (.drive l v) → l ∈ [.r1, .g1, .b1, .r2, .g2, .b2, .clk])

/-- 41_output_scan.md section 4 (R149, R150, derived there): no threshold saturates, and a stored value makes its line
high in exactly the first `v div STEP` sub-frames, at most COUNT. -/
def Obligations.ValueIsHighInItsFirstSubFrames : Prop :=
  ∀ bb : BitVec 4, 1 ≤ bb.toNat → bb.toNat ≤ 8 →
    (stepOf bb).toNat = 2 ^ (8 - bb.toNat) ∧ (countOf bb).toNat = 2 ^ bb.toNat - 1 ∧
    (countOf bb).toNat * (stepOf bb).toNat = 256 - (stepOf bb).toNat ∧
    ∀ (i : Nat) (v : Byte), i < (countOf bb).toNat →
      threshold (stepOf bb) i = (i + 1) * (stepOf bb).toNat ∧
      (lvl v (threshold (stepOf bb) i) = true ↔ i < v.toNat / (stepOf bb).toNat) ∧
      v.toNat / (stepOf bb).toNat = v.toNat >>> (8 - bb.toNat) ∧
      v.toNat / (stepOf bb).toNat ≤ (countOf bb).toNat

/-! ## Performing the trace -/

/-- 10_state.md section 6 (R30): the trace is fixed while an OUTPUT runs: FB, `bb`, STEP, COUNT, the build and so the
trace are the same after every step that does not reset. -/
def Obligations.TraceIsFixedWhileBusy : Prop :=
  (∀ s t : State, step s = .next t → s.rst = false → s.busy = true →
    t.fb = s.fb ∧ t.bb = s.bb ∧ t.stepReg = s.stepReg ∧ t.countReg = s.countReg ∧ t.resp = s.resp ∧
    t.configured = s.configured ∧ t.faulted = s.faulted ∧ scanTrace t = scanTrace s) ∧
  (∀ s t : State, s.fb = t.fb → s.stepReg = t.stepReg → s.countReg = t.countReg → s.cfg = t.cfg →
    scanTrace s = scanTrace t)

/-- 41_output_scan.md section 3 (R144): the sequencer step under Propagate, event by event of the trace. The two
clauses about a request without an answer yet are the model's reading (log 7): the request is out and nothing else of
the block moves. The host's pins move or hold as in every step (log 8). -/
def Obligations.PropagateStep : Prop :=
  ∀ (s : State) (k : Nat), s.rst = false → s.seq = .running k → s.cfg.policy = .propagate →
    (∀ l v, (scanTrace s)[k]? = some (.drive l v) →
      (s.lineReply = some .ok →
        step s = .next { s.hold with
          lineScript := s.lineScript.tail, draws := s.draws + 1, record := .drive l v .ok :: s.record, outstanding := none
          seq := if k + 1 = (scanTrace s).length then .idle else .running (k + 1)
          err := if k + 1 = (scanTrace s).length then .none else s.err }) ∧
      (s.lineReply = some .fail →
        step s = .next { s.hold with
          lineScript := s.lineScript.tail, draws := s.draws + 1, record := .drive l v .fail :: s.record, outstanding := none
          seq := .idle, err := .lineFail }) ∧
      (s.lineReply = none →
        step s = .next { s.hold with
          lineScript := s.lineScript.tail, draws := s.draws + 1, outstanding := some (.drive l v) })) ∧
    (∀ us, (scanTrace s)[k]? = some (.wait us) →
      (s.delayReply = .done →
        step s = .next { s.hold with
          delayScript := s.delayScript.tail, draws := s.draws + 1, record := .wait us :: s.record, outstanding := none
          seq := if k + 1 = (scanTrace s).length then .idle else .running (k + 1)
          err := if k + 1 = (scanTrace s).length then .none else s.err }) ∧
      (s.delayReply = .pending →
        step s = .next { s.hold with
          delayScript := s.delayScript.tail, draws := s.draws + 1, outstanding := some (.wait us) }))

/-- 41_output_scan.md section 3 (R145): the sequencer step under BestEffort is that of R144, except that an answer
`fail` is ignored: the index advances as after `ok`. The two clauses about a request without an answer yet are the
model's reading (log 7), as under Propagate. The host's pins move or hold as in every step (log 8). -/
def Obligations.BestEffortStep : Prop :=
  ∀ (s : State) (k : Nat), s.rst = false → s.seq = .running k → s.cfg.policy = .bestEffort →
    (∀ l v, (scanTrace s)[k]? = some (.drive l v) →
      (∀ answer, s.lineReply = some answer →
        step s = .next { s.hold with
          lineScript := s.lineScript.tail, draws := s.draws + 1, record := .drive l v answer :: s.record, outstanding := none
          seq := if k + 1 = (scanTrace s).length then .idle else .running (k + 1)
          err := if k + 1 = (scanTrace s).length then .none else s.err }) ∧
      (s.lineReply = none →
        step s = .next { s.hold with
          lineScript := s.lineScript.tail, draws := s.draws + 1, outstanding := some (.drive l v) })) ∧
    (∀ us, (scanTrace s)[k]? = some (.wait us) →
      (s.delayReply = .done →
        step s = .next { s.hold with
          delayScript := s.delayScript.tail, draws := s.draws + 1, record := .wait us :: s.record, outstanding := none
          seq := if k + 1 = (scanTrace s).length then .idle else .running (k + 1)
          err := if k + 1 = (scanTrace s).length then .none else s.err }) ∧
      (s.delayReply = .pending →
        step s = .next { s.hold with
          delayScript := s.delayScript.tail, draws := s.draws + 1, outstanding := some (.wait us) }))

/-- R176: the entry into LINE_FAIL leaves FAULTED, CONFIGURED, FB and RESP unchanged, the events before it stay
issued, the block is ready for the next command, and OUTPUT may be issued again. -/
def Obligations.LineFailIsNotFatal : Prop :=
  ∀ (s : State) (k : Nat) (l : Line) (v : Level), s.Inv → s.rst = false → s.seq = .running k →
    s.cfg.policy = .propagate → (scanTrace s)[k]? = some (.drive l v) → s.lineReply = some .fail →
    ∃ t, step s = .next t ∧ t.seq = .idle ∧ t.busy = false ∧ t.cmdReady = true ∧ t.err = .lineFail ∧
      t.faulted = false ∧ t.configured = s.configured ∧ t.fb = s.fb ∧ t.resp = s.resp ∧ t.bb = s.bb ∧
      t.record = .drive l v .fail :: s.record ∧ exec .output t = .next { t with seq := .running 0 }

/-- 41_output_scan.md section 3 and 20_memory.md section 4 (R144, R61): when every answer is `ok` and every wait
completes, an OUTPUT issues exactly its trace, in order, and ends idle with ERR = NONE, all else of the block as it
was. -/
def Obligations.OutputIssuesItsWholeTrace : Prop :=
  ∀ (s : State) (ls : List LineReply) (ds : List DelayReply), s.Inv → s.seq = .running 0 → s.noReset = true →
    s.lineScript = lineRepliesFor .ok (scanTrace s) ++ ls → s.delayScript = delayRepliesFor (scanTrace s) ++ ds →
    ∃ t, runFor (scanTrace s).length s = .next t ∧
      t.record.reverse = s.record.reverse ++ (scanTrace s).map (Event.answered .ok) ∧
      t = { s with seq := .idle, err := .none, lineScript := ls, delayScript := ds, draws := t.draws,
                   outstanding := none, record := t.record, cmd := t.cmd, cmdValid := t.cmdValid, rst := t.rst,
                   host := t.host, resets := t.resets }

/-- 41_output_scan.md section 3 and 95_test_vectors.md L2-I (R144, R173, R176): a failure at event index `k` under
Propagate ends the OUTPUT after exactly `k + 1` events, with ERR = LINE_FAIL and FAULTED = 0. -/
def Obligations.OutputStopsAtTheFirstFailure : Prop :=
  ∀ (s : State) (k : Nat) (l : Line) (v : Level) (ls : List LineReply) (ds : List DelayReply),
    s.Inv → s.seq = .running 0 → s.noReset = true → s.cfg.policy = .propagate →
    (scanTrace s)[k]? = some (.drive l v) →
    s.lineScript = lineRepliesFor .ok ((scanTrace s).take k) ++ some .fail :: ls →
    s.delayScript = delayRepliesFor ((scanTrace s).take k) ++ ds →
    ∃ t, runFor (k + 1) s = .next t ∧
      t.record.reverse = s.record.reverse ++ ((scanTrace s).take k).map (Event.answered .ok) ++ [.drive l v .fail] ∧
      t.outstanding = none ∧
      t.seq = .idle ∧ t.err = .lineFail ∧ t.faulted = false ∧ t.configured = true ∧ t.fb = s.fb ∧
      t.lineScript = ls ∧ t.delayScript = ds

/-- 41_output_scan.md section 3 (R145): under BestEffort an OUTPUT always completes with ERR = NONE and issues its
whole trace, whatever the answers are. -/
def Obligations.BestEffortAlwaysCompletes : Prop :=
  ∀ (s : State) (answers : List Answer) (ls : List LineReply) (ds : List DelayReply), s.Inv →
    s.seq = .running 0 → s.noReset = true → s.cfg.policy = .bestEffort →
    answers.length = ((scanTrace s).filter Event.isDrive).length →
    s.lineScript = answers.map some ++ ls → s.delayScript = delayRepliesFor (scanTrace s) ++ ds →
    ∃ t, runFor (scanTrace s).length s = .next t ∧ t.seq = .idle ∧ t.err = .none ∧ t.faulted = false ∧
      t.lineScript = ls ∧ t.delayScript = ds ∧
      t.outstanding = none ∧ ∃ added, t.record.reverse = s.record.reverse ++ added ∧ added.length = (scanTrace s).length ∧
        ∀ (k : Nat) (e : Event), (scanTrace s)[k]? = some e → ∃ answer, added[k]? = some (e.answered answer)

/-- 41_output_scan.md section 4 (R152, derived there): the lines' levels after an OUTPUT whose every answer was `ok`. -/
def Obligations.LineLevelsAfterOutput : Prop :=
  ∀ (s : State) (ls : List LineReply) (ds : List DelayReply), s.Inv → s.seq = .running 0 → s.noReset = true →
    s.lineScript = lineRepliesFor .ok (scanTrace s) ++ ls → s.delayScript = delayRepliesFor (scanTrace s) ++ ds →
    ∃ t, runFor (scanTrace s).length s = .next t ∧
      t.lineLevel .oe = true ∧ t.lineLevel .lat = true ∧ t.lineLevel .clk = false ∧
      t.lineLevel .a = true ∧ t.lineLevel .b = true ∧ t.lineLevel .c = true ∧
      t.lineLevel .d = true ∧ (s.cfg.variant = .double → t.lineLevel .f = true) ∧
      ∀ ch, ch < 6 → t.lineLevel (colorLine ch) =
        lvl (s.channel (s.cfg.variant.rows - 1) 63 ch) (threshold s.stepReg (s.countReg.toNat - 1))

/-- 10_state.md section 7 (R35): after an `ok` answer the line has the requested level; after a `fail` its level is a
free value, one for each failure; at power-up it is a free value, one for each line. That every other step and every
other line's answer leaves a level as it is, also a drawn one, is the model's reading (log 14). -/
def Obligations.LineLevelsFollowTheAnswers : Prop :=
  (∀ (s t : State) (k : Nat) (l : Line) (v : Level) (answer : Answer), s.rst = false → s.seq = .running k →
    eventAt s k = some (.drive l v) → s.lineReply = some answer → step s = .next t →
    t.lineLevel l = (if answer = .ok then v else Config.failedLevel s.record.length) ∧ ∀ l', l' ≠ l → t.lineLevel l' = s.lineLevel l') ∧
  (∀ (s t : State), step s = .next t →
    (∀ k l v answer, s.rst = false → s.seq = .running k → eventAt s k = some (.drive l v) →
      s.lineReply ≠ some answer) →
    ∀ l, t.lineLevel l = s.lineLevel l) ∧
  (∀ l, State.reset.lineLevel l = Config.initialLevel l.number)

/-- 70_reset_and_hazards.md section 5 (R204): a run has ended exactly when the host has no further command, on the port or to
come, and the block is idle or FAULTED. It then stays ended, also over a reset (RST is no command), and its final tuple
stays in every step that does not reset. A state with BUSY = 1 is never final. -/
def Obligations.EndedRunsStayFinal : Prop :=
  (∀ s : State, s.ended = true ↔
    (s.cmdValid = false ∧ ∀ d ∈ s.host, d = .quiet) ∧ (s.seq = .idle ∨ s.faulted = true)) ∧
  (∀ s : State, s.Inv → s.ended = true →
    ∃ t, step s = .next t ∧ t.ended = true ∧ (s.rst = false → t.final = s.final)) ∧
  (∀ s : State, s.Inv → s.busy = true → s.ended = false)

/-- 70_reset_and_hazards.md section 5 (R204) and 10_state.md section 7 (R33, R34): every request issued is on record,
answered or not, and none is dropped. A reset or a step without a running OUTPUT leaves the issued requests as they
are, a request that the reset abandons among them (log 13); a sequencer step issues the event at its position, once,
also if it is answered only in a later step (log 7). Premise: the invariant, which has the request that is out at the
sequencer's position. -/
def Obligations.EveryIssuedRequestIsRecorded : Prop :=
  ∀ s t : State, s.Inv → step s = .next t →
    ((s.rst = true ∨ s.seq = .idle) → t.issued = s.issued) ∧
    (s.rst = true → t.record.reverse = s.issued ∧ t.outstanding = none) ∧
    (∀ (k : Nat) (e : Event), s.rst = false → s.seq = .running k → (scanTrace s)[k]? = some e →
      (s.outstanding = none → s.issued = s.record.reverse) ∧
      (s.outstanding ≠ none → s.issued = s.record.reverse ++ [.unanswered e]) ∧
      (t.issued = s.record.reverse ++ [.unanswered e] ∨
        ∃ answer, t.issued = s.record.reverse ++ [e.answered answer]))
end

