-- ==== Sys2Proof/Laws/State.lean ====
section
/-! SUPPORT. One lemma per field per update: what each shared operation on the state does to each field. -/

namespace Sys2Proof.Machine

/-! `State.raiseFatal` (R174) -/

@[simp] theorem raiseFatal_cfg (code : Err) (s : State) : (s.raiseFatal code).cfg = s.cfg := rfl
@[simp] theorem raiseFatal_configured (code : Err) (s : State) : (s.raiseFatal code).configured = s.configured := rfl
@[simp] theorem raiseFatal_bb (code : Err) (s : State) : (s.raiseFatal code).bb = s.bb := rfl
@[simp] theorem raiseFatal_stepReg (code : Err) (s : State) : (s.raiseFatal code).stepReg = s.stepReg := rfl
@[simp] theorem raiseFatal_countReg (code : Err) (s : State) : (s.raiseFatal code).countReg = s.countReg := rfl
@[simp] theorem raiseFatal_fb (code : Err) (s : State) : (s.raiseFatal code).fb = s.fb := rfl
@[simp] theorem raiseFatal_faulted (code : Err) (s : State) : (s.raiseFatal code).faulted = true := rfl
@[simp] theorem raiseFatal_err (code : Err) (s : State) : (s.raiseFatal code).err = code := rfl
@[simp] theorem raiseFatal_seq (code : Err) (s : State) : (s.raiseFatal code).seq = s.seq := rfl
@[simp] theorem raiseFatal_resp (code : Err) (s : State) : (s.raiseFatal code).resp = s.resp := rfl
@[simp] theorem raiseFatal_cmd (code : Err) (s : State) : (s.raiseFatal code).cmd = s.cmd := rfl
@[simp] theorem raiseFatal_cmdValid (code : Err) (s : State) : (s.raiseFatal code).cmdValid = s.cmdValid := rfl
@[simp] theorem raiseFatal_rst (code : Err) (s : State) : (s.raiseFatal code).rst = s.rst := rfl
@[simp] theorem raiseFatal_host (code : Err) (s : State) : (s.raiseFatal code).host = s.host := rfl
@[simp] theorem raiseFatal_lineScript (code : Err) (s : State) : (s.raiseFatal code).lineScript = s.lineScript := rfl
@[simp] theorem raiseFatal_delayScript (code : Err) (s : State) : (s.raiseFatal code).delayScript = s.delayScript := rfl
@[simp] theorem raiseFatal_draws (code : Err) (s : State) : (s.raiseFatal code).draws = s.draws := rfl
@[simp] theorem raiseFatal_record (code : Err) (s : State) : (s.raiseFatal code).record = s.record := rfl
@[simp] theorem raiseFatal_outstanding (code : Err) (s : State) : (s.raiseFatal code).outstanding = s.outstanding := rfl
@[simp] theorem raiseFatal_resets (code : Err) (s : State) : (s.raiseFatal code).resets = s.resets := rfl

/-! `State.raiseLineFail` (R176) -/

@[simp] theorem raiseLineFail_cfg (s : State) : (s.raiseLineFail).cfg = s.cfg := rfl
@[simp] theorem raiseLineFail_configured (s : State) : (s.raiseLineFail).configured = s.configured := rfl
@[simp] theorem raiseLineFail_bb (s : State) : (s.raiseLineFail).bb = s.bb := rfl
@[simp] theorem raiseLineFail_stepReg (s : State) : (s.raiseLineFail).stepReg = s.stepReg := rfl
@[simp] theorem raiseLineFail_countReg (s : State) : (s.raiseLineFail).countReg = s.countReg := rfl
@[simp] theorem raiseLineFail_fb (s : State) : (s.raiseLineFail).fb = s.fb := rfl
@[simp] theorem raiseLineFail_faulted (s : State) : (s.raiseLineFail).faulted = s.faulted := rfl
@[simp] theorem raiseLineFail_err (s : State) : (s.raiseLineFail).err = .lineFail := rfl
@[simp] theorem raiseLineFail_seq (s : State) : (s.raiseLineFail).seq = .idle := rfl
@[simp] theorem raiseLineFail_resp (s : State) : (s.raiseLineFail).resp = s.resp := rfl
@[simp] theorem raiseLineFail_cmd (s : State) : (s.raiseLineFail).cmd = s.cmd := rfl
@[simp] theorem raiseLineFail_cmdValid (s : State) : (s.raiseLineFail).cmdValid = s.cmdValid := rfl
@[simp] theorem raiseLineFail_rst (s : State) : (s.raiseLineFail).rst = s.rst := rfl
@[simp] theorem raiseLineFail_host (s : State) : (s.raiseLineFail).host = s.host := rfl
@[simp] theorem raiseLineFail_lineScript (s : State) : (s.raiseLineFail).lineScript = s.lineScript := rfl
@[simp] theorem raiseLineFail_delayScript (s : State) : (s.raiseLineFail).delayScript = s.delayScript := rfl
@[simp] theorem raiseLineFail_draws (s : State) : (s.raiseLineFail).draws = s.draws := rfl
@[simp] theorem raiseLineFail_record (s : State) : (s.raiseLineFail).record = s.record := rfl
@[simp] theorem raiseLineFail_outstanding (s : State) : (s.raiseLineFail).outstanding = s.outstanding := rfl
@[simp] theorem raiseLineFail_resets (s : State) : (s.raiseLineFail).resets = s.resets := rfl

/-! `State.takeLine` (R33) -/

@[simp] theorem takeLine_cfg (s : State) : (s.takeLine).cfg = s.cfg := rfl
@[simp] theorem takeLine_configured (s : State) : (s.takeLine).configured = s.configured := rfl
@[simp] theorem takeLine_bb (s : State) : (s.takeLine).bb = s.bb := rfl
@[simp] theorem takeLine_stepReg (s : State) : (s.takeLine).stepReg = s.stepReg := rfl
@[simp] theorem takeLine_countReg (s : State) : (s.takeLine).countReg = s.countReg := rfl
@[simp] theorem takeLine_fb (s : State) : (s.takeLine).fb = s.fb := rfl
@[simp] theorem takeLine_faulted (s : State) : (s.takeLine).faulted = s.faulted := rfl
@[simp] theorem takeLine_err (s : State) : (s.takeLine).err = s.err := rfl
@[simp] theorem takeLine_seq (s : State) : (s.takeLine).seq = s.seq := rfl
@[simp] theorem takeLine_resp (s : State) : (s.takeLine).resp = s.resp := rfl
@[simp] theorem takeLine_cmd (s : State) : (s.takeLine).cmd = s.cmd := rfl
@[simp] theorem takeLine_cmdValid (s : State) : (s.takeLine).cmdValid = s.cmdValid := rfl
@[simp] theorem takeLine_rst (s : State) : (s.takeLine).rst = s.rst := rfl
@[simp] theorem takeLine_host (s : State) : (s.takeLine).host = s.host := rfl
@[simp] theorem takeLine_lineScript (s : State) : (s.takeLine).lineScript = s.lineScript.tail := rfl
@[simp] theorem takeLine_delayScript (s : State) : (s.takeLine).delayScript = s.delayScript := rfl
@[simp] theorem takeLine_draws (s : State) : (s.takeLine).draws = s.draws + 1 := rfl
@[simp] theorem takeLine_record (s : State) : (s.takeLine).record = s.record := rfl
@[simp] theorem takeLine_outstanding (s : State) : (s.takeLine).outstanding = s.outstanding := rfl
@[simp] theorem takeLine_resets (s : State) : (s.takeLine).resets = s.resets := rfl

/-! `State.takeDelay` (R34) -/

@[simp] theorem takeDelay_cfg (s : State) : (s.takeDelay).cfg = s.cfg := rfl
@[simp] theorem takeDelay_configured (s : State) : (s.takeDelay).configured = s.configured := rfl
@[simp] theorem takeDelay_bb (s : State) : (s.takeDelay).bb = s.bb := rfl
@[simp] theorem takeDelay_stepReg (s : State) : (s.takeDelay).stepReg = s.stepReg := rfl
@[simp] theorem takeDelay_countReg (s : State) : (s.takeDelay).countReg = s.countReg := rfl
@[simp] theorem takeDelay_fb (s : State) : (s.takeDelay).fb = s.fb := rfl
@[simp] theorem takeDelay_faulted (s : State) : (s.takeDelay).faulted = s.faulted := rfl
@[simp] theorem takeDelay_err (s : State) : (s.takeDelay).err = s.err := rfl
@[simp] theorem takeDelay_seq (s : State) : (s.takeDelay).seq = s.seq := rfl
@[simp] theorem takeDelay_resp (s : State) : (s.takeDelay).resp = s.resp := rfl
@[simp] theorem takeDelay_cmd (s : State) : (s.takeDelay).cmd = s.cmd := rfl
@[simp] theorem takeDelay_cmdValid (s : State) : (s.takeDelay).cmdValid = s.cmdValid := rfl
@[simp] theorem takeDelay_rst (s : State) : (s.takeDelay).rst = s.rst := rfl
@[simp] theorem takeDelay_host (s : State) : (s.takeDelay).host = s.host := rfl
@[simp] theorem takeDelay_lineScript (s : State) : (s.takeDelay).lineScript = s.lineScript := rfl
@[simp] theorem takeDelay_delayScript (s : State) : (s.takeDelay).delayScript = s.delayScript.tail := rfl
@[simp] theorem takeDelay_draws (s : State) : (s.takeDelay).draws = s.draws + 1 := rfl
@[simp] theorem takeDelay_record (s : State) : (s.takeDelay).record = s.record := rfl
@[simp] theorem takeDelay_outstanding (s : State) : (s.takeDelay).outstanding = s.outstanding := rfl
@[simp] theorem takeDelay_resets (s : State) : (s.takeDelay).resets = s.resets := rfl

/-! `State.log` (R204) -/

@[simp] theorem log_cfg (e : Issued) (s : State) : (s.log e).cfg = s.cfg := rfl
@[simp] theorem log_configured (e : Issued) (s : State) : (s.log e).configured = s.configured := rfl
@[simp] theorem log_bb (e : Issued) (s : State) : (s.log e).bb = s.bb := rfl
@[simp] theorem log_stepReg (e : Issued) (s : State) : (s.log e).stepReg = s.stepReg := rfl
@[simp] theorem log_countReg (e : Issued) (s : State) : (s.log e).countReg = s.countReg := rfl
@[simp] theorem log_fb (e : Issued) (s : State) : (s.log e).fb = s.fb := rfl
@[simp] theorem log_faulted (e : Issued) (s : State) : (s.log e).faulted = s.faulted := rfl
@[simp] theorem log_err (e : Issued) (s : State) : (s.log e).err = s.err := rfl
@[simp] theorem log_seq (e : Issued) (s : State) : (s.log e).seq = s.seq := rfl
@[simp] theorem log_resp (e : Issued) (s : State) : (s.log e).resp = s.resp := rfl
@[simp] theorem log_cmd (e : Issued) (s : State) : (s.log e).cmd = s.cmd := rfl
@[simp] theorem log_cmdValid (e : Issued) (s : State) : (s.log e).cmdValid = s.cmdValid := rfl
@[simp] theorem log_rst (e : Issued) (s : State) : (s.log e).rst = s.rst := rfl
@[simp] theorem log_host (e : Issued) (s : State) : (s.log e).host = s.host := rfl
@[simp] theorem log_lineScript (e : Issued) (s : State) : (s.log e).lineScript = s.lineScript := rfl
@[simp] theorem log_delayScript (e : Issued) (s : State) : (s.log e).delayScript = s.delayScript := rfl
@[simp] theorem log_draws (e : Issued) (s : State) : (s.log e).draws = s.draws := rfl
@[simp] theorem log_record (e : Issued) (s : State) : (s.log e).record = e :: s.record := rfl
@[simp] theorem log_outstanding (e : Issued) (s : State) : (s.log e).outstanding = none := rfl
@[simp] theorem log_resets (e : Issued) (s : State) : (s.log e).resets = s.resets := rfl

/-! `State.await` (R33, R34) -/

@[simp] theorem await_cfg (e : Event) (s : State) : (s.await e).cfg = s.cfg := rfl
@[simp] theorem await_configured (e : Event) (s : State) : (s.await e).configured = s.configured := rfl
@[simp] theorem await_bb (e : Event) (s : State) : (s.await e).bb = s.bb := rfl
@[simp] theorem await_stepReg (e : Event) (s : State) : (s.await e).stepReg = s.stepReg := rfl
@[simp] theorem await_countReg (e : Event) (s : State) : (s.await e).countReg = s.countReg := rfl
@[simp] theorem await_fb (e : Event) (s : State) : (s.await e).fb = s.fb := rfl
@[simp] theorem await_faulted (e : Event) (s : State) : (s.await e).faulted = s.faulted := rfl
@[simp] theorem await_err (e : Event) (s : State) : (s.await e).err = s.err := rfl
@[simp] theorem await_seq (e : Event) (s : State) : (s.await e).seq = s.seq := rfl
@[simp] theorem await_resp (e : Event) (s : State) : (s.await e).resp = s.resp := rfl
@[simp] theorem await_cmd (e : Event) (s : State) : (s.await e).cmd = s.cmd := rfl
@[simp] theorem await_cmdValid (e : Event) (s : State) : (s.await e).cmdValid = s.cmdValid := rfl
@[simp] theorem await_rst (e : Event) (s : State) : (s.await e).rst = s.rst := rfl
@[simp] theorem await_host (e : Event) (s : State) : (s.await e).host = s.host := rfl
@[simp] theorem await_resets (e : Event) (s : State) : (s.await e).resets = s.resets := rfl
@[simp] theorem await_lineScript (e : Event) (s : State) : (s.await e).lineScript = s.lineScript := rfl
@[simp] theorem await_delayScript (e : Event) (s : State) : (s.await e).delayScript = s.delayScript := rfl
@[simp] theorem await_draws (e : Event) (s : State) : (s.await e).draws = s.draws := rfl
@[simp] theorem await_outstanding (e : Event) (s : State) : (s.await e).outstanding = some e := rfl
@[simp] theorem await_record (e : Event) (s : State) : (s.await e).record = s.record := rfl

/-! `State.resetBlock` (R190) -/

@[simp] theorem resetBlock_cfg (s : State) : (s.resetBlock).cfg = s.cfg := rfl
@[simp] theorem resetBlock_configured (s : State) : (s.resetBlock).configured = false := rfl
@[simp] theorem resetBlock_bb (s : State) : (s.resetBlock).bb = 0 := rfl
@[simp] theorem resetBlock_stepReg (s : State) : (s.resetBlock).stepReg = 0 := rfl
@[simp] theorem resetBlock_countReg (s : State) : (s.resetBlock).countReg = 0 := rfl
@[simp] theorem resetBlock_fb (s : State) : (s.resetBlock).fb = [] := rfl
@[simp] theorem resetBlock_faulted (s : State) : (s.resetBlock).faulted = false := rfl
@[simp] theorem resetBlock_err (s : State) : (s.resetBlock).err = .none := rfl
@[simp] theorem resetBlock_seq (s : State) : (s.resetBlock).seq = .idle := rfl
@[simp] theorem resetBlock_resp (s : State) : (s.resetBlock).resp = 0 := rfl
@[simp] theorem resetBlock_cmd (s : State) : (s.resetBlock).cmd = s.cmd := rfl
@[simp] theorem resetBlock_cmdValid (s : State) : (s.resetBlock).cmdValid = s.cmdValid := rfl
@[simp] theorem resetBlock_rst (s : State) : (s.resetBlock).rst = s.rst := rfl
@[simp] theorem resetBlock_host (s : State) : (s.resetBlock).host = s.host := rfl
@[simp] theorem resetBlock_lineScript (s : State) : (s.resetBlock).lineScript = s.lineScript := rfl
@[simp] theorem resetBlock_delayScript (s : State) : (s.resetBlock).delayScript = s.delayScript := rfl
@[simp] theorem resetBlock_draws (s : State) : (s.resetBlock).draws = s.draws := rfl
@[simp] theorem resetBlock_record (s : State) : (s.resetBlock).record = s.abandoned := rfl
@[simp] theorem resetBlock_outstanding (s : State) : (s.resetBlock).outstanding = none := rfl
@[simp] theorem resetBlock_resets (s : State) : (s.resetBlock).resets = s.resets := rfl

/-! `State.withFetchWord` (R23) -/

@[simp] theorem withFetchWord_cfg (nbits w : Nat) (s : State) : (s.withFetchWord nbits w).cfg = s.cfg := rfl
@[simp] theorem withFetchWord_configured (nbits w : Nat) (s : State) : (s.withFetchWord nbits w).configured = s.configured := rfl
@[simp] theorem withFetchWord_bb (nbits w : Nat) (s : State) : (s.withFetchWord nbits w).bb = s.bb := rfl
@[simp] theorem withFetchWord_stepReg (nbits w : Nat) (s : State) : (s.withFetchWord nbits w).stepReg = s.stepReg := rfl
@[simp] theorem withFetchWord_countReg (nbits w : Nat) (s : State) : (s.withFetchWord nbits w).countReg = s.countReg := rfl
@[simp] theorem withFetchWord_fb (nbits w : Nat) (s : State) : (s.withFetchWord nbits w).fb = s.fb := rfl
@[simp] theorem withFetchWord_faulted (nbits w : Nat) (s : State) : (s.withFetchWord nbits w).faulted = s.faulted := rfl
@[simp] theorem withFetchWord_err (nbits w : Nat) (s : State) : (s.withFetchWord nbits w).err = s.err := rfl
@[simp] theorem withFetchWord_seq (nbits w : Nat) (s : State) : (s.withFetchWord nbits w).seq = .idle := rfl
@[simp] theorem withFetchWord_resp (nbits w : Nat) (s : State) : (s.withFetchWord nbits w).resp = s.resp := rfl
@[simp] theorem withFetchWord_cmd (nbits w : Nat) (s : State) : (s.withFetchWord nbits w).cmd = tableWord nbits w := rfl
@[simp] theorem withFetchWord_cmdValid (nbits w : Nat) (s : State) : (s.withFetchWord nbits w).cmdValid = true := rfl
@[simp] theorem withFetchWord_rst (nbits w : Nat) (s : State) : (s.withFetchWord nbits w).rst = false := rfl
@[simp] theorem withFetchWord_host (nbits w : Nat) (s : State) : (s.withFetchWord nbits w).host = s.host := rfl
@[simp] theorem withFetchWord_lineScript (nbits w : Nat) (s : State) : (s.withFetchWord nbits w).lineScript = s.lineScript := rfl
@[simp] theorem withFetchWord_delayScript (nbits w : Nat) (s : State) : (s.withFetchWord nbits w).delayScript = s.delayScript := rfl
@[simp] theorem withFetchWord_draws (nbits w : Nat) (s : State) : (s.withFetchWord nbits w).draws = s.draws := rfl
@[simp] theorem withFetchWord_record (nbits w : Nat) (s : State) : (s.withFetchWord nbits w).record = s.record := rfl
@[simp] theorem withFetchWord_outstanding (nbits w : Nat) (s : State) : (s.withFetchWord nbits w).outstanding = none := rfl
@[simp] theorem withFetchWord_resets (nbits w : Nat) (s : State) : (s.withFetchWord nbits w).resets = s.resets := rfl

/-! `State.driveRst` (R191) -/

@[simp] theorem driveRst_cfg (s : State) : (s.driveRst).cfg = s.cfg := rfl
@[simp] theorem driveRst_configured (s : State) : (s.driveRst).configured = s.configured := rfl
@[simp] theorem driveRst_bb (s : State) : (s.driveRst).bb = s.bb := rfl
@[simp] theorem driveRst_stepReg (s : State) : (s.driveRst).stepReg = s.stepReg := rfl
@[simp] theorem driveRst_countReg (s : State) : (s.driveRst).countReg = s.countReg := rfl
@[simp] theorem driveRst_fb (s : State) : (s.driveRst).fb = s.fb := rfl
@[simp] theorem driveRst_faulted (s : State) : (s.driveRst).faulted = s.faulted := rfl
@[simp] theorem driveRst_err (s : State) : (s.driveRst).err = s.err := rfl
@[simp] theorem driveRst_seq (s : State) : (s.driveRst).seq = s.seq := rfl
@[simp] theorem driveRst_resp (s : State) : (s.driveRst).resp = s.resp := rfl
@[simp] theorem driveRst_cmd (s : State) : (s.driveRst).cmd = s.cmd := rfl
@[simp] theorem driveRst_cmdValid (s : State) : (s.driveRst).cmdValid = s.cmdValid := rfl
@[simp] theorem driveRst_rst (s : State) : (s.driveRst).rst = s.resets.headD false := rfl
@[simp] theorem driveRst_host (s : State) : (s.driveRst).host = s.host := rfl
@[simp] theorem driveRst_resets (s : State) : (s.driveRst).resets = s.resets.tail := rfl
@[simp] theorem driveRst_lineScript (s : State) : (s.driveRst).lineScript = s.lineScript := rfl
@[simp] theorem driveRst_delayScript (s : State) : (s.driveRst).delayScript = s.delayScript := rfl
@[simp] theorem driveRst_draws (s : State) : (s.driveRst).draws = s.draws := rfl
@[simp] theorem driveRst_outstanding (s : State) : (s.driveRst).outstanding = s.outstanding := rfl
@[simp] theorem driveRst_record (s : State) : (s.driveRst).record = s.record := rfl

/-! `State.driveNext` (R23): only the host's pins and the rest of its list move. -/

@[simp] theorem driveNext_cfg (s : State) : (s.driveNext).cfg = s.cfg := by
  unfold State.driveNext State.driveCmd; split <;> rfl
@[simp] theorem driveNext_configured (s : State) : (s.driveNext).configured = s.configured := by
  unfold State.driveNext State.driveCmd; split <;> rfl
@[simp] theorem driveNext_bb (s : State) : (s.driveNext).bb = s.bb := by
  unfold State.driveNext State.driveCmd; split <;> rfl
@[simp] theorem driveNext_stepReg (s : State) : (s.driveNext).stepReg = s.stepReg := by
  unfold State.driveNext State.driveCmd; split <;> rfl
@[simp] theorem driveNext_countReg (s : State) : (s.driveNext).countReg = s.countReg := by
  unfold State.driveNext State.driveCmd; split <;> rfl
@[simp] theorem driveNext_fb (s : State) : (s.driveNext).fb = s.fb := by
  unfold State.driveNext State.driveCmd; split <;> rfl
@[simp] theorem driveNext_faulted (s : State) : (s.driveNext).faulted = s.faulted := by
  unfold State.driveNext State.driveCmd; split <;> rfl
@[simp] theorem driveNext_err (s : State) : (s.driveNext).err = s.err := by
  unfold State.driveNext State.driveCmd; split <;> rfl
@[simp] theorem driveNext_seq (s : State) : (s.driveNext).seq = s.seq := by
  unfold State.driveNext State.driveCmd; split <;> rfl
@[simp] theorem driveNext_resp (s : State) : (s.driveNext).resp = s.resp := by
  unfold State.driveNext State.driveCmd; split <;> rfl
@[simp] theorem driveNext_lineScript (s : State) : (s.driveNext).lineScript = s.lineScript := by
  unfold State.driveNext State.driveCmd; split <;> rfl
@[simp] theorem driveNext_delayScript (s : State) : (s.driveNext).delayScript = s.delayScript := by
  unfold State.driveNext State.driveCmd; split <;> rfl
@[simp] theorem driveNext_draws (s : State) : (s.driveNext).draws = s.draws := by
  unfold State.driveNext State.driveCmd; split <;> rfl
@[simp] theorem driveNext_record (s : State) : (s.driveNext).record = s.record := by
  unfold State.driveNext State.driveCmd; split <;> rfl
@[simp] theorem driveNext_outstanding (s : State) : (s.driveNext).outstanding = s.outstanding := by
  unfold State.driveNext State.driveCmd; split <;> rfl
@[simp] theorem driveNext_resets (s : State) : (s.driveNext).resets = s.resets.tail := by
  unfold State.driveNext State.driveCmd; split <;> rfl
@[simp] theorem driveNext_rst (s : State) : (s.driveNext).rst = s.resets.headD false := by
  unfold State.driveNext State.driveCmd; split <;> rfl

/-! `State.hold` (R23): only the host's pins and the rest of its list move. -/

@[simp] theorem hold_cfg (s : State) : (s.hold).cfg = s.cfg := by
  unfold State.hold; split <;> simp
@[simp] theorem hold_configured (s : State) : (s.hold).configured = s.configured := by
  unfold State.hold; split <;> simp
@[simp] theorem hold_bb (s : State) : (s.hold).bb = s.bb := by
  unfold State.hold; split <;> simp
@[simp] theorem hold_stepReg (s : State) : (s.hold).stepReg = s.stepReg := by
  unfold State.hold; split <;> simp
@[simp] theorem hold_countReg (s : State) : (s.hold).countReg = s.countReg := by
  unfold State.hold; split <;> simp
@[simp] theorem hold_fb (s : State) : (s.hold).fb = s.fb := by
  unfold State.hold; split <;> simp
@[simp] theorem hold_faulted (s : State) : (s.hold).faulted = s.faulted := by
  unfold State.hold; split <;> simp
@[simp] theorem hold_err (s : State) : (s.hold).err = s.err := by
  unfold State.hold; split <;> simp
@[simp] theorem hold_seq (s : State) : (s.hold).seq = s.seq := by
  unfold State.hold; split <;> simp
@[simp] theorem hold_resp (s : State) : (s.hold).resp = s.resp := by
  unfold State.hold; split <;> simp
@[simp] theorem hold_lineScript (s : State) : (s.hold).lineScript = s.lineScript := by
  unfold State.hold; split <;> simp
@[simp] theorem hold_delayScript (s : State) : (s.hold).delayScript = s.delayScript := by
  unfold State.hold; split <;> simp
@[simp] theorem hold_draws (s : State) : (s.hold).draws = s.draws := by
  unfold State.hold; split <;> simp
@[simp] theorem hold_record (s : State) : (s.hold).record = s.record := by
  unfold State.hold; split <;> simp
@[simp] theorem hold_outstanding (s : State) : (s.hold).outstanding = s.outstanding := by
  unfold State.hold; split <;> simp
@[simp] theorem hold_resets (s : State) : (s.hold).resets = s.resets.tail := by
  unfold State.hold; split <;> simp
@[simp] theorem hold_rst (s : State) : (s.hold).rst = s.resets.headD false := by
  unfold State.hold; split <;> simp

/-! `State.advance` (R144): only SEQ and ERR can move. -/

@[simp] theorem advance_cfg (k : Nat) (s : State) : (s.advance k).cfg = s.cfg := by
  unfold State.advance; split <;> rfl
@[simp] theorem advance_configured (k : Nat) (s : State) : (s.advance k).configured = s.configured := by
  unfold State.advance; split <;> rfl
@[simp] theorem advance_bb (k : Nat) (s : State) : (s.advance k).bb = s.bb := by
  unfold State.advance; split <;> rfl
@[simp] theorem advance_stepReg (k : Nat) (s : State) : (s.advance k).stepReg = s.stepReg := by
  unfold State.advance; split <;> rfl
@[simp] theorem advance_countReg (k : Nat) (s : State) : (s.advance k).countReg = s.countReg := by
  unfold State.advance; split <;> rfl
@[simp] theorem advance_fb (k : Nat) (s : State) : (s.advance k).fb = s.fb := by
  unfold State.advance; split <;> rfl
@[simp] theorem advance_faulted (k : Nat) (s : State) : (s.advance k).faulted = s.faulted := by
  unfold State.advance; split <;> rfl
@[simp] theorem advance_resp (k : Nat) (s : State) : (s.advance k).resp = s.resp := by
  unfold State.advance; split <;> rfl
@[simp] theorem advance_cmd (k : Nat) (s : State) : (s.advance k).cmd = s.cmd := by
  unfold State.advance; split <;> rfl
@[simp] theorem advance_cmdValid (k : Nat) (s : State) : (s.advance k).cmdValid = s.cmdValid := by
  unfold State.advance; split <;> rfl
@[simp] theorem advance_rst (k : Nat) (s : State) : (s.advance k).rst = s.rst := by
  unfold State.advance; split <;> rfl
@[simp] theorem advance_host (k : Nat) (s : State) : (s.advance k).host = s.host := by
  unfold State.advance; split <;> rfl
@[simp] theorem advance_lineScript (k : Nat) (s : State) : (s.advance k).lineScript = s.lineScript := by
  unfold State.advance; split <;> rfl
@[simp] theorem advance_delayScript (k : Nat) (s : State) : (s.advance k).delayScript = s.delayScript := by
  unfold State.advance; split <;> rfl
@[simp] theorem advance_draws (k : Nat) (s : State) : (s.advance k).draws = s.draws := by
  unfold State.advance; split <;> rfl
@[simp] theorem advance_record (k : Nat) (s : State) : (s.advance k).record = s.record := by
  unfold State.advance; split <;> rfl
@[simp] theorem advance_outstanding (k : Nat) (s : State) : (s.advance k).outstanding = s.outstanding := by
  unfold State.advance; split <;> rfl
@[simp] theorem advance_resets (k : Nat) (s : State) : (s.advance k).resets = s.resets := by
  unfold State.advance; split <;> rfl

@[simp] theorem hold_of_offer {s : State} (h : s.cmdValid = true) : s.hold = s.driveRst := by
  simp [State.hold, h]

@[simp] theorem hold_of_quiet {s : State} (h : s.cmdValid = false) : s.hold = s.driveNext := by
  simp [State.hold, h]

end Sys2Proof.Machine
end

