-- ==== Sys2Proof/Laws/Exec.lean ====
section
/-! SUPPORT. What the common checks and the six meanings can do, said once (R172, R174, R175, R103 to R107, R130). -/

namespace Sys2Proof.Machine

theorem checked_of_faulted {n : Bool} {body : State → Host.Outcome State Fault Refusal} {s : State}
    (hf : s.faulted = true) : checked n body s = .next s := by
  simp [checked, hf]

theorem checked_of_notConfigured {body : State → Host.Outcome State Fault Refusal} {s : State}
    (hf : s.faulted = false) (hc : s.configured = false) :
    checked true body s = .next (s.raiseFatal .notConfigured) := by
  simp [checked, hf, hc]

theorem checked_of_ready {n : Bool} {body : State → Host.Outcome State Fault Refusal} {s : State}
    (hf : s.faulted = false) (hc : n = true → s.configured = true) : checked n body s = body s := by
  cases n with
  | false => simp [checked, hf]
  | true => simp [checked, hf, hc rfl]

/-- What a command that succeeds makes of the state it is accepted in. -/
def Succeeds (s t : State) : Instr → Prop
  | .init bb => outOfDepth bb = false ∧
      t = { s with bb := bb, stepReg := stepOf bb, countReg := countOf bb, fb := Memory.zeroed, configured := true,
                   err := .none }
  | .wrpix y x color => s.configured = true ∧ outOfRows s.cfg.variant y = false ∧
      t = { s with fb := s.fb.writeTriple (placeOf s.cfg.variant x.toNat y.toNat) (ingest s.cfg color), err := .none }
  | .clear => s.configured = true ∧ t = { s with fb := Memory.zeroed, err := .none }
  | .output => s.configured = true ∧ t = { s with seq := .running 0 }
  | .geom => t = { s with resp := geomWord s.cfg.variant, err := .none }
  | .rdcell y x => s.configured = true ∧ outOfRows s.cfg.variant y = false ∧
      t = { s with
            resp := tripleWord (s.fb.readTriple (placeOf s.cfg.variant x.toNat y.toNat)).red
              (s.fb.readTriple (placeOf s.cfg.variant x.toNat y.toNat)).green
              (s.fb.readTriple (placeOf s.cfg.variant x.toNat y.toNat)).blue
            err := .none }

/-- What the checks and a command's own pseudocode can do together. -/
theorem checked_cases {n : Bool} {body : State → Host.Outcome State Fault Refusal} {s : State} {P : State → Prop}
    (hbody : s.faulted = false → (n = true → s.configured = true) →
      (∃ code, code.fatal = true ∧ body s = .next (s.raiseFatal code)) ∨ ∃ t, body s = .next t ∧ P t) :
    (s.faulted = true ∧ checked n body s = .next s) ∨
    (s.faulted = false ∧ ∃ code, code.fatal = true ∧ checked n body s = .next (s.raiseFatal code)) ∨
    (s.faulted = false ∧ ∃ t, checked n body s = .next t ∧ P t) := by
  by_cases hf : s.faulted = true
  · exact .inl ⟨hf, checked_of_faulted hf⟩
  · have hf' : s.faulted = false := by simpa using hf
    by_cases hc : n = true → s.configured = true
    · rw [checked_of_ready hf' hc]
      rcases hbody hf' hc with h | h
      · exact .inr (.inl ⟨hf', h⟩)
      · exact .inr (.inr ⟨hf', h⟩)
    · obtain ⟨hn, hc'⟩ : n = true ∧ s.configured = false := by simpa using hc
      subst hn
      exact .inr (.inl ⟨hf', .notConfigured, rfl, checked_of_notConfigured hf' hc'⟩)

/-- Everything a command can do: it is discarded, or it raises a fatal error, or it succeeds. -/
theorem exec_cases (i : Instr) (s : State) :
    (s.faulted = true ∧ exec i s = .next s) ∨
    (s.faulted = false ∧ ∃ code, code.fatal = true ∧ exec i s = .next (s.raiseFatal code)) ∨
    (s.faulted = false ∧ ∃ t, exec i s = .next t ∧ Succeeds s t i) := by
  cases i with
  | init bb =>
    simp only [exec, execInit]
    refine checked_cases fun _ _ => ?_
    by_cases hb : outOfDepth bb = true
    · exact .inl ⟨.configRange, rfl, if_pos hb⟩
    · exact .inr ⟨_, if_neg hb, by simpa using hb, rfl⟩
  | wrpix y x color =>
    simp only [exec, execWrpix]
    refine checked_cases fun _ hc => ?_
    by_cases hb : outOfRows s.cfg.variant y = true
    · exact .inl ⟨.outOfBounds, rfl, if_pos hb⟩
    · exact .inr ⟨_, if_neg hb, hc rfl, by simpa using hb, rfl⟩
  | clear =>
    simp only [exec, execClear]
    exact checked_cases fun _ hc => .inr ⟨_, rfl, hc rfl, rfl⟩
  | output =>
    simp only [exec, execOutput]
    exact checked_cases fun _ hc => .inr ⟨_, rfl, hc rfl, rfl⟩
  | geom =>
    simp only [exec, execGeom]
    exact checked_cases fun _ _ => .inr ⟨_, rfl, rfl⟩
  | rdcell y x =>
    simp only [exec, execRdcell]
    refine checked_cases fun _ hc => ?_
    by_cases hb : outOfRows s.cfg.variant y = true
    · exact .inl ⟨.outOfBounds, rfl, if_pos hb⟩
    · exact .inr ⟨_, if_neg hb, hc rfl, by simpa using hb, rfl⟩

/-- Everything the acceptance of an illegal word can do (R78, R175). -/
theorem acceptIllegal_cases (s : State) :
    (s.faulted = true ∧ acceptIllegal s = .next s) ∨
    (s.faulted = false ∧ acceptIllegal s = .next (s.raiseFatal .illegalCommand)) := by
  by_cases hf : s.faulted = true
  · exact .inl ⟨hf, by simp [acceptIllegal, hf]⟩
  · have hf' : s.faulted = false := by simpa using hf
    exact .inr ⟨hf', by simp [acceptIllegal, hf']⟩

end Sys2Proof.Machine
end

