-- ==== Sys2Proof/Laws/Memory.lean ====
section
/-! SUPPORT. The frame buffer as canonical data: every operation keeps the canonical form, a read after a write, and equal
reads of canonical memories make equal memories. -/

namespace Sys2Proof.Machine

theorem Memory.wfFrom_mono {lo lo' : Nat} {m : Memory} (hle : lo' ≤ lo) (h : Memory.wfFrom lo m = true) :
    Memory.wfFrom lo' m = true := by
  cases m with
  | nil => rfl
  | cons p t =>
    simp only [Memory.wfFrom, Bool.and_eq_true, decide_eq_true_eq] at h ⊢
    exact ⟨⟨by omega, h.1.2⟩, h.2⟩

/-- Below its first index a canonical memory lists nothing. -/
theorem Memory.read_below {lo a : Nat} {m : Memory} (h : Memory.wfFrom lo m = true) (ha : a < lo) :
    m.read a = Memory.unlisted := by
  induction m generalizing lo with
  | nil => rfl
  | cons p t ih =>
    simp only [Memory.wfFrom, Bool.and_eq_true, decide_eq_true_eq] at h
    have hne : p.1 ≠ a := by omega
    rw [Memory.read, if_neg hne]
    exact ih h.2 (by omega)

theorem Memory.wfFrom_put {lo a : Nat} {v : Byte} {t : Memory} (hlo : lo ≤ a)
    (h : Memory.wfFrom (a + 1) t = true) : Memory.wfFrom lo (Memory.put a v t) = true := by
  unfold Memory.put
  split
  · exact Memory.wfFrom_mono (by omega) h
  · rename_i hv
    simp [Memory.wfFrom, hlo, hv, h]

theorem Memory.wfFrom_write {lo a : Nat} {v : Byte} {m : Memory} (hlo : lo ≤ a)
    (h : Memory.wfFrom lo m = true) : Memory.wfFrom lo (m.write a v) = true := by
  induction m generalizing lo with
  | nil => exact Memory.wfFrom_put hlo rfl
  | cons p t ih =>
    obtain ⟨b, w⟩ := p
    have h' := h
    simp only [Memory.wfFrom, Bool.and_eq_true, decide_eq_true_eq] at h'
    rw [Memory.write]
    split
    · rename_i hab
      refine Memory.wfFrom_put hlo ?_
      simp only [Memory.wfFrom, Bool.and_eq_true, decide_eq_true_eq]
      exact ⟨⟨by omega, h'.1.2⟩, h'.2⟩
    · split
      · rename_i hab
        subst hab
        exact Memory.wfFrom_put hlo h'.2
      · simp only [Memory.wfFrom, Bool.and_eq_true, decide_eq_true_eq]
        exact ⟨h'.1, ih (by omega) h'.2⟩

/-- A write keeps the canonical form. -/
theorem Memory.wf_write {m : Memory} (a : Nat) (v : Byte) (h : m.wf = true) : (m.write a v).wf = true :=
  Memory.wfFrom_write (Nat.zero_le a) h

@[simp] theorem Memory.wf_zeroed : Memory.zeroed.wf = true := rfl

/-- Writing a pixel's triple keeps the canonical form. -/
theorem Memory.wf_writeTriple {m : Memory} (p : Place) (t : Triple) (h : m.wf = true) :
    (m.writeTriple p t).wf = true :=
  Memory.wf_write _ _ (Memory.wf_write _ _ (Memory.wf_write _ _ h))

theorem Memory.read_put {a a' : Nat} {v : Byte} {t : Memory} (h : Memory.wfFrom (a + 1) t = true) :
    (Memory.put a v t).read a' = if a' = a then v else t.read a' := by
  unfold Memory.put
  split
  · rename_i hv
    by_cases ha : a' = a
    · rw [if_pos ha, ha, Memory.read_below h (Nat.lt_succ_self a), hv]
    · rw [if_neg ha]
  · by_cases ha : a' = a
    · simp [Memory.read, ha]
    · simp [Memory.read, ha, Ne.symm ha]

theorem Memory.read_write_from {lo a a' : Nat} {v : Byte} {m : Memory} (h : Memory.wfFrom lo m = true) :
    (m.write a v).read a' = if a' = a then v else m.read a' := by
  induction m generalizing lo with
  | nil => exact Memory.read_put rfl
  | cons p t ih =>
    obtain ⟨b, w⟩ := p
    have h' := h
    simp only [Memory.wfFrom, Bool.and_eq_true, decide_eq_true_eq] at h'
    rw [Memory.write]
    split
    · rename_i hab
      refine Memory.read_put ?_
      simp only [Memory.wfFrom, Bool.and_eq_true, decide_eq_true_eq]
      exact ⟨⟨by omega, h'.1.2⟩, h'.2⟩
    · split
      · rename_i hab
        subst hab
        rw [Memory.read_put h'.2]
        by_cases ha : a' = a
        · simp [ha]
        · simp [ha, Memory.read, Ne.symm ha]
      · rename_i hlt hne
        by_cases hb : b = a'
        · simp [Memory.read, hb, show a' ≠ a by omega]
        · simp [Memory.read, hb, ih h'.2]

/-- A read after a write: the written index reads the value written, every other index reads as before. -/
theorem Memory.read_write {m : Memory} (h : m.wf = true) (a a' : Nat) (v : Byte) :
    (m.write a v).read a' = if a' = a then v else m.read a' :=
  Memory.read_write_from h

/-- Reading after a pixel's triple is written: its three indices read the triple, every other index reads as before. -/
theorem Memory.read_writeTriple {m : Memory} (h : m.wf = true) (p : Place) (t : Triple) (a : Nat) :
    (m.writeTriple p t).read a =
      if a = fbIndex p.h p.c (firstChannel p.bottom + 2) then t.blue
      else if a = fbIndex p.h p.c (firstChannel p.bottom + 1) then t.green
      else if a = fbIndex p.h p.c (firstChannel p.bottom) then t.red
      else m.read a := by
  unfold Memory.writeTriple
  rw [Memory.read_write (Memory.wf_write _ _ (Memory.wf_write _ _ h)), Memory.read_write (Memory.wf_write _ _ h),
    Memory.read_write h]

theorem Memory.read_zeroed (a : Nat) : Memory.zeroed.read a = 0 := rfl

theorem Memory.eq_of_read_from {lo : Nat} {m n : Memory} (hm : Memory.wfFrom lo m = true)
    (hn : Memory.wfFrom lo n = true) (h : ∀ a, m.read a = n.read a) : m = n := by
  induction m generalizing lo n with
  | nil =>
    cases n with
    | nil => rfl
    | cons q u =>
      simp only [Memory.wfFrom, Bool.and_eq_true, decide_eq_true_eq] at hn
      have := h q.1
      simp [Memory.read] at this
      exact absurd this.symm hn.1.2
  | cons p t ih =>
    cases n with
    | nil =>
      simp only [Memory.wfFrom, Bool.and_eq_true, decide_eq_true_eq] at hm
      have := h p.1
      simp [Memory.read] at this
      exact absurd this hm.1.2
    | cons q u =>
      have hm' := hm
      have hn' := hn
      simp only [Memory.wfFrom, Bool.and_eq_true, decide_eq_true_eq] at hm' hn'
      have hpq : p.1 = q.1 := by
        rcases Nat.lt_trichotomy p.1 q.1 with hlt | heq | hgt
        · have hp := h p.1
          rw [Memory.read, if_pos rfl, Memory.read, if_neg (by omega),
            Memory.read_below hn'.2 (by omega)] at hp
          exact absurd hp hm'.1.2
        · exact heq
        · have hq := h q.1
          rw [Memory.read, if_neg (by omega), Memory.read_below hm'.2 (by omega), Memory.read, if_pos rfl] at hq
          exact absurd hq.symm hn'.1.2
      have hv : p.2 = q.2 := by
        have hp := h p.1
        rwa [Memory.read, if_pos rfl, Memory.read, if_pos hpq.symm] at hp
      have ht : t = u := by
        refine ih hm'.2 (by rw [hpq]; exact hn'.2) fun a => ?_
        have ha := h a
        by_cases hpa : p.1 = a
        · subst hpa
          rw [Memory.read_below hm'.2 (Nat.lt_succ_self _),
            Memory.read_below hn'.2 (by omega)]
        · rwa [Memory.read, if_neg hpa, Memory.read, if_neg (by omega)] at ha
      rw [ht, Prod.ext hpq hv]

/-- Canonical memories that read alike are equal. -/
theorem Memory.eq_of_read {m n : Memory} (hm : m.wf = true) (hn : n.wf = true) (h : ∀ a, m.read a = n.read a) :
    m = n :=
  Memory.eq_of_read_from hm hn h

theorem Memory.below_put {n a : Nat} {v : Byte} {t : Memory} (ha : a < n) (h : t.below n = true) :
    (Memory.put a v t).below n = true := by
  unfold Memory.put
  split
  · exact h
  · simpa [Memory.below, ha] using h

/-- A write inside the bound keeps every index inside it. -/
theorem Memory.below_write {n a : Nat} {v : Byte} {m : Memory} (ha : a < n) (h : m.below n = true) :
    (m.write a v).below n = true := by
  induction m with
  | nil => exact Memory.below_put ha rfl
  | cons p t ih =>
    obtain ⟨b, w⟩ := p
    have h' := h
    simp only [Memory.below, List.all_cons, Bool.and_eq_true, decide_eq_true_eq] at h'
    rw [Memory.write]
    split
    · exact Memory.below_put ha h
    · split
      · exact Memory.below_put ha h'.2
      · simp only [Memory.below, List.all_cons, Bool.and_eq_true, decide_eq_true_eq]
        exact ⟨h'.1, ih h'.2⟩

/-- The flat index of R52 stays inside FB for every legal half-row, column and channel. -/
theorem fbIndex_lt {v : Variant} {h c ch : Nat} (hh : h < v.rows) (hc : c < 64) (hch : ch < 6) :
    fbIndex h c ch < fbSize v := by
  unfold fbIndex fbSize
  omega

/-- The flat index of R52 names one channel. -/
theorem fbIndex_inj {h c ch h' c' ch' : Nat} (hc : c < 64) (hch : ch < 6) (hc' : c' < 64) (hch' : ch' < 6) :
    fbIndex h c ch = fbIndex h' c' ch' ↔ h = h' ∧ c = c' ∧ ch = ch' := by
  unfold fbIndex
  omega

theorem Memory.below_writeTriple {v : Variant} {m : Memory} {p : Place} (t : Triple) (hh : p.h < v.rows)
    (hc : p.c < 64) (h : m.below (fbSize v) = true) : (m.writeTriple p t).below (fbSize v) = true := by
  have hf : firstChannel p.bottom + 2 < 6 := by
    unfold firstChannel
    split <;> omega
  unfold Memory.writeTriple
  exact Memory.below_write (fbIndex_lt hh hc hf)
    (Memory.below_write (fbIndex_lt hh hc (by omega)) (Memory.below_write (fbIndex_lt hh hc (by omega)) h))

/-- The pixel map's half-row is a row of the half (R51). -/
theorem placeOf_h_lt (v : Variant) (x y : Nat) : (placeOf v x y).h < v.rows :=
  Nat.mod_lt _ (by cases v <;> decide)

end Sys2Proof.Machine
end

