-- ==== Sys2Proof/Laws/PerInstr.lean ====
section
/-! SUPPORT. One law per command, of the command as syntax: its word carries its opcode, and its row of the opcode map
selects it (R71, R77). -/

namespace Sys2Proof.Laws.OpcodeRowSelects

/-- The row of R77 that bears the command's mnemonic selects the command's word. -/
def Statement (i : Instr) : Prop :=
  ∃ r ∈ opcodeMap, r.mnemonic = i.mnemonic ∧ r.selects (encode i) = true

theorem init (bb : BitVec 4) : Statement (.init bb) := by
  refine ⟨⟨"INIT", 0xFFFFFFF0#32, 0x10000000#32⟩, by simp [opcodeMap], rfl, ?_⟩
  revert bb
  decide

theorem wrpix (y x : BitVec 6) (color : BitVec 16) : Statement (.wrpix y x color) := by
  refine ⟨⟨"WRPIX", 0xF0000000#32, 0x20000000#32⟩, by simp [opcodeMap], rfl, ?_⟩
  refine decide_eq_true ?_
  simp only [encode]
  ext i hi
  simp only [BitVec.getElem_and, BitVec.getElem_append]
  have hmask : (0xF0000000#32)[i] = decide (28 ≤ i) := by
    revert i
    decide
  have hpat : (0x20000000#32)[i] = decide (i = 29) := by
    revert i
    decide
  rw [hmask, hpat]
  by_cases h : 28 ≤ i
  · obtain rfl | rfl | rfl | rfl : i = 28 ∨ i = 29 ∨ i = 30 ∨ i = 31 := by omega
    all_goals simp
  · simp [h]
    omega

theorem clear : Statement .clear := by
  refine ⟨⟨"CLEAR", 0xFFFFFFFF#32, 0x30000000#32⟩, by simp [opcodeMap], rfl, by decide⟩

theorem output : Statement .output := by
  refine ⟨⟨"OUTPUT", 0xFFFFFFFF#32, 0x40000000#32⟩, by simp [opcodeMap], rfl, by decide⟩

theorem geom : Statement .geom := by
  refine ⟨⟨"GEOM", 0xFFFFFFFF#32, 0x50000000#32⟩, by simp [opcodeMap], rfl, by decide⟩

theorem rdcell (y x : BitVec 6) : Statement (.rdcell y x) := by
  refine ⟨⟨"RDCELL", 0xF000FFFF#32, 0x60000000#32⟩, by simp [opcodeMap], rfl, ?_⟩
  refine decide_eq_true ?_
  simp only [encode]
  ext i hi
  simp only [BitVec.getElem_and, BitVec.getElem_append]
  have hmask : (0xF000FFFF#32)[i] = (decide (28 ≤ i) || decide (i < 16)) := by
    revert i
    decide
  have hpat : (0x60000000#32)[i] = (decide (i = 29) || decide (i = 30)) := by
    revert i
    decide
  rw [hmask, hpat]
  by_cases h : 28 ≤ i
  · obtain rfl | rfl | rfl | rfl : i = 28 ∨ i = 29 ∨ i = 30 ∨ i = 31 := by omega
    all_goals simp
  · by_cases h' : i < 16
    · simp [h, h']
      omega
    · simp [h, h']
      omega

end Sys2Proof.Laws.OpcodeRowSelects
end

