-- ==== Sys2Proof/Laws/Scan.lean ====
section
/-! SUPPORT. The trace's parts: their lengths, and what the trace depends on (R30, R130, R147). -/

namespace Sys2Proof.Machine

@[simp] theorem columnEvents_length (s : State) (t r c : Nat) : (columnEvents s t r c).length = 8 := rfl

@[simp] theorem addressEvents_length (v : Variant) (r : Nat) : (addressEvents v r).length = v.naddr := by
  cases v <;> rfl

@[simp] theorem rowTail_length (cfg : Config) (r : Nat) : (rowTail cfg r).length = 7 + cfg.variant.naddr := by
  simp [rowTail]
  omega

theorem flatMap_range_length {α : Type} {len : Nat} (f : Nat → List α) (hf : ∀ i, (f i).length = len) (n : Nat) :
    ((List.range n).flatMap f).length = n * len := by
  induction n with
  | zero => simp
  | succ n ih =>
    rw [List.range_succ, List.flatMap_append, List.length_append, ih, Nat.succ_mul]
    simp [hf]

/-- A concatenation of `n` pieces of one length is read piece by piece. -/
theorem flatMap_range_getElem? {α : Type} {len : Nat} (f : Nat → List α) (hf : ∀ i, (f i).length = len)
    (hpos : 0 < len) (n k : Nat) :
    ((List.range n).flatMap f)[k]? = if k / len < n then (f (k / len))[k % len]? else none := by
  induction n generalizing k with
  | zero => simp
  | succ n ih =>
    rw [List.range_succ, List.flatMap_append, List.getElem?_append, flatMap_range_length f hf n]
    have hlast : List.flatMap f [n] = f n := by simp
    by_cases hk : k < n * len
    · have hq : k / len < n := (Nat.div_lt_iff_lt_mul hpos).mpr hk
      rw [if_pos hk, ih, if_pos hq, if_pos (Nat.lt_succ_of_lt hq)]
    · have hge : n * len ≤ k := Nat.le_of_not_lt hk
      rw [if_neg hk, hlast]
      by_cases hk' : k < (n + 1) * len
      · have hq : k / len = n := Nat.div_eq_of_lt_le hge hk'
        have hm : k % len = k - n * len := by rw [Nat.mod_eq_sub_mul_div, hq, Nat.mul_comm]
        rw [if_pos (by omega), hq, hm]
      · have hq : ¬ k / len < n + 1 := fun h => hk' ((Nat.div_lt_iff_lt_mul hpos).mp h)
        rw [if_neg hq]
        have hlen := hf n
        rw [Nat.succ_mul] at hk'
        exact List.getElem?_eq_none (by omega)

@[simp] theorem rowShift_length (s : State) (t r : Nat) : (rowShift s t r).length = 512 := by
  have h := flatMap_range_length (fun c => columnEvents s t r c) (fun c => columnEvents_length s t r c) panelWidth
  rw [rowShift, h]
  rfl

theorem rows_pos (v : Variant) : 0 < v.rows := by
  cases v <;> decide

theorem rowLength_pos (v : Variant) : 0 < rowLength v := by
  cases v <;> decide

/-- A row's 64 columns and its tail (R147). -/
theorem rowLength_eq (v : Variant) : rowLength v = 512 + (7 + v.naddr) := by
  cases v <;> decide

/-- A row has `519 + NADDR` events (R147). -/
theorem row_length (s : State) (t r : Nat) :
    (rowShift s t r ++ rowTail s.cfg r).length = rowLength s.cfg.variant := by
  simp [rowLength_eq]

/-- A sub-frame is R rows. -/
theorem subFrame_length (s : State) (i : Nat) :
    (subFrame s i).length = s.cfg.variant.rows * rowLength s.cfg.variant :=
  flatMap_range_length _ (fun r => row_length s (threshold s.stepReg i) r) _

/-- The trace depends on FB, STEP, COUNT and the build alone (R130). -/
theorem scanTrace_congr {s t : State} (hfb : t.fb = s.fb) (hstep : t.stepReg = s.stepReg)
    (hcount : t.countReg = s.countReg) (hcfg : t.cfg = s.cfg) : scanTrace t = scanTrace s := by
  simp [scanTrace, subFrame, rowShift, columnEvents, State.channel, hfb, hstep, hcount, hcfg]

theorem traceLength_congr {s t : State} (hcount : t.countReg = s.countReg) (hcfg : t.cfg = s.cfg) :
    traceLength t = traceLength s := by
  simp [traceLength, rowCount, hcount, hcfg]

end Sys2Proof.Machine
end

