-- ==== Sys2Proof/Laws/Step.lean ====
section
/-! SUPPORT. Everything one step of the machine can do, said once: the sequencer's step (R144, R145), then the machine's
(R23, R190). -/

namespace Sys2Proof.Machine

/-- Everything a sequencer step can do, if it answers a next state: it waits for its answer, or an answered drive or a
completed wait is followed up. -/
theorem seqStep_cases {k : Nat} {s t : State} (h : seqStep k s = .next t) :
    (∃ l v, eventAt s k = some (.drive l v) ∧ s.lineReply = none ∧ t = s.takeLine.await (.drive l v)) ∨
    (∃ l v answer, eventAt s k = some (.drive l v) ∧ s.lineReply = some answer ∧ t = afterDrive k l v answer s) ∨
    (∃ us, eventAt s k = some (.wait us) ∧ s.delayReply = .pending ∧ t = s.takeDelay.await (.wait us)) ∨
    (∃ us, eventAt s k = some (.wait us) ∧ s.delayReply = .done ∧ t = afterWait k us s) := by
  unfold seqStep at h
  cases he : eventAt s k with
  | none => simp [he] at h
  | some e =>
    cases e with
    | drive l v =>
      simp only [he] at h
      cases hr : s.lineReply with
      | none =>
        simp only [hr, Host.Outcome.next.injEq] at h
        exact .inl ⟨l, v, rfl, rfl, h.symm⟩
      | some answer =>
        simp only [hr, Host.Outcome.next.injEq] at h
        exact .inr (.inl ⟨l, v, answer, rfl, rfl, h.symm⟩)
    | wait us =>
      simp only [he] at h
      cases hr : s.delayReply with
      | pending =>
        simp only [hr, Host.Outcome.next.injEq] at h
        exact .inr (.inr (.inl ⟨us, rfl, rfl, h.symm⟩))
      | done =>
        simp only [hr, Host.Outcome.next.injEq] at h
        exact .inr (.inr (.inr ⟨us, rfl, rfl, h.symm⟩))

/-- A sequencer step stops only where its trace has no event. -/
theorem seqStep_next_of_event {k : Nat} {s : State} {e : Event} (h : eventAt s k = some e) :
    ∃ t, seqStep k s = .next t := by
  unfold seqStep
  cases e with
  | drive l v =>
    simp only [h]
    cases s.lineReply with
    | none => exact ⟨_, rfl⟩
    | some answer => exact ⟨_, rfl⟩
  | wait us =>
    simp only [h]
    cases s.delayReply with
    | pending => exact ⟨_, rfl⟩
    | done => exact ⟨_, rfl⟩

/-- Everything a step can do: reset, a sequencer step, the acceptance of a legal or an illegal word, or nothing but the
host's pins. -/
theorem step_cases (s : State) :
    (s.rst = true ∧ step s = .next s.resetBlock.hold) ∨
    (s.rst = false ∧ ∃ k, s.seq = .running k ∧ step s = seqStep k s.hold) ∨
    (s.rst = false ∧ s.seq = .idle ∧ s.cmdValid = true ∧
      ∃ i, decode s.cmd = .command i ∧ step s = exec i s.driveNext) ∨
    (s.rst = false ∧ s.seq = .idle ∧ s.cmdValid = true ∧
      ∃ why, decode s.cmd = .illegal why ∧ step s = acceptIllegal s.driveNext) ∨
    (s.rst = false ∧ s.seq = .idle ∧ s.cmdValid = false ∧ step s = .next s.driveNext) := by
  by_cases hr : s.rst = true
  · exact .inl ⟨hr, by simp [step, hr]⟩
  · have hr' : s.rst = false := by simpa using hr
    cases hs : s.seq with
    | running k => exact .inr (.inl ⟨hr', k, rfl, by simp [step, hr', hs]⟩)
    | idle =>
      have hready : s.cmdReady = true := by simp [State.cmdReady, State.busy, hs, Seq.busy]
      by_cases hv : s.cmdValid = true
      · cases hd : decode s.cmd with
        | command i =>
          exact .inr (.inr (.inl ⟨hr', rfl, hv, i, rfl, by
            simp [step, hr', hs, State.accepts, hv, hready, accept, State.fetched, hd]⟩))
        | illegal why =>
          exact .inr (.inr (.inr (.inl ⟨hr', rfl, hv, why, rfl, by
            simp [step, hr', hs, State.accepts, hv, hready, accept, State.fetched, hd]⟩)))
      · have hv' : s.cmdValid = false := by simpa using hv
        exact .inr (.inr (.inr (.inr ⟨hr', rfl, hv', by simp [step, hr', hs, State.accepts, hv', State.hold]⟩)))

end Sys2Proof.Machine
end

