-- ==== Sys2Proof/Laws/Run.lean ====
section
/-! SUPPORT. Runs of many steps; states that differ only in the host's pins and the inputs; the invariant's independence of
those. -/

namespace Sys2Proof.Machine

@[simp] theorem runFor_zero (s : State) : runFor 0 s = .next s := rfl

theorem runFor_succ {n : Nat} {s t : State} (h : step s = .next t) : runFor (n + 1) s = runFor n t := by
  have h' : Sys2Proof.core.step s = .next t := h
  simp only [runFor, Host.Core.run, h']
  rfl

/-- A run that answers a state has taken its first step. -/
theorem runFor_succ_cases {n : Nat} {s t : State} (h : runFor (n + 1) s = .next t) :
    ∃ u, step s = .next u ∧ runFor n u = .next t := by
  cases he : step s with
  | next u => exact ⟨u, rfl, by rwa [runFor_succ he] at h⟩
  | fault r =>
    have he' : Sys2Proof.core.step s = .fault r := he
    simp [runFor, Host.Core.run, he'] at h
  | refused r =>
    have he' : Sys2Proof.core.step s = .refused r := he
    simp [runFor, Host.Core.run, he'] at h

/-- A property that every step keeps holds at the end of every run from a state that has it. -/
theorem runFor_keeps {P : State → Prop} (hstep : ∀ s t, P s → step s = .next t → P t) {n : Nat} {s t : State}
    (hs : P s) (h : runFor n s = .next t) : P t := by
  induction n generalizing s with
  | zero =>
    cases h
    exact hs
  | succ n ih =>
    obtain ⟨u, hu, hrun⟩ := runFor_succ_cases h
    exact ih (hstep s u hs hu) hrun

/-- The host asserts no reset now, so it asserts none after its pins have moved. -/
theorem hold_noReset {s : State} (h : s.noReset = true) : s.hold.noReset = true := by
  unfold State.noReset at h ⊢
  cases hh : s.resets <;> simp_all

theorem rst_of_noReset {s : State} (h : s.noReset = true) : s.rst = false := by
  unfold State.noReset at h
  simp at h
  exact h.1

/-- Two states agree in the block's own state, the build, the request that is out and the environment's record. -/
structure SameBlock (s t : State) : Prop where
  cfg : t.cfg = s.cfg
  configured : t.configured = s.configured
  bb : t.bb = s.bb
  stepReg : t.stepReg = s.stepReg
  countReg : t.countReg = s.countReg
  fb : t.fb = s.fb
  faulted : t.faulted = s.faulted
  err : t.err = s.err
  seq : t.seq = s.seq
  resp : t.resp = s.resp
  record : t.record = s.record
  outstanding : t.outstanding = s.outstanding

theorem driveNext_sameBlock (s : State) : SameBlock s s.driveNext := by constructor <;> simp
theorem hold_sameBlock (s : State) : SameBlock s s.hold := by constructor <;> simp
theorem driveRst_sameBlock (s : State) : SameBlock s s.driveRst := by constructor <;> simp
theorem takeLine_sameBlock (s : State) : SameBlock s s.takeLine := by constructor <;> simp
theorem takeDelay_sameBlock (s : State) : SameBlock s s.takeDelay := by constructor <;> simp

/-- The event at an index depends on FB, STEP, COUNT and the build only. -/
theorem eventAt_congr {s t : State} (hfb : t.fb = s.fb) (hstep : t.stepReg = s.stepReg)
    (hcount : t.countReg = s.countReg) (hcfg : t.cfg = s.cfg) (k : Nat) : eventAt t k = eventAt s k := by
  have hp : position t k = position s k := by
    unfold position rowCount
    rw [hcount, hcfg]
  have he : ∀ p : Position, Position.event t p = Position.event s p := by
    intro p
    cases p <;> simp [Position.event, columnEvents, State.channel, hfb, hstep, hcfg]
  simp only [eventAt, hp]
  congr 1
  exact funext he

theorem nextEvent_of_sameBlock {s t : State} (h : SameBlock s t) : t.nextEvent = s.nextEvent := by
  simp only [State.nextEvent, h.seq, eventAt_congr h.fb h.stepReg h.countReg h.cfg]

/-- An idle block has no request out (R30). -/
theorem outstanding_of_idle {s : State} (hi : s.Inv) (h : s.seq = .idle) : s.outstanding = none := by
  cases ho : s.outstanding with
  | none => rfl
  | some e =>
    have hn := hi.outstanding e ho
    simp [State.nextEvent, h] at hn

/-- The invariant speaks of nothing but the block, the build, the request that is out and the record. -/
theorem inv_of_sameBlock {s t : State} (h : SameBlock s t) (hi : s.Inv) : t.Inv := by
  obtain ⟨h1, h2, h3, h4, h5, h6, h7, h8⟩ := hi
  have hn := nextEvent_of_sameBlock h
  obtain ⟨e1, e2, e3, e4, e5, e6, e7, e8, e9, e10, e11, e12⟩ := h
  constructor
  · simpa [State.ConfigOk, *] using h1
  · simpa [State.SeqOk, traceLength, rowCount, *] using h2
  · simpa [State.ErrOk, *] using h3
  · simpa [State.FbOk, *] using h4
  · simpa [State.GammaOk, State.channel, *] using h5
  · simpa [State.RespOk, *] using h6
  · simpa [State.RecordOk, *] using h7
  · simpa [State.OutstandingOk, *] using h8

end Sys2Proof.Machine
end

