-- ==== Sys2Proof/Tests/Slice0.lean ====
section
/-! SUPPORT. The model's own tests: expected values are those of 95_test_vectors.md or of the rule cited; then, for every
statement of Certificates/Slice0/Obligations.lean that has hypotheses, a named state and operands that meet them. -/

namespace Sys2Proof.Tests

open Sys2Proof.Machine

/-! ## Decode (95_test_vectors.md L2-A; words written out from 30_encoding.md R72 to R75) -/

theorem test_decode_init : decode 0b0001_000000000000000000000000_1000#32 = .command (.init 8) := by decide
theorem test_decode_wrpix : decode 0b0010_010100_000101_11111_000000_00000#32 = .command (.wrpix 20 5 0xF800) := by decide
theorem test_decode_clear : decode 0b0011_0000000000000000000000000000#32 = .command .clear := by decide
theorem test_decode_output : decode 0b0100_0000000000000000000000000000#32 = .command .output := by decide
theorem test_decode_geom : decode 0b0101_0000000000000000000000000000#32 = .command .geom := by decide
theorem test_decode_rdcell : decode 0b0110_010100_000101_0000000000000000#32 = .command (.rdcell 20 5) := by decide
theorem test_decode_zero_is_illegal : decode 0x00000000#32 = .illegal .reservedOpcode := by decide
theorem test_decode_init_bit4 : decode 0x10000010#32 = .illegal .nonzeroField := by decide
theorem test_decode_clear_low_bit : decode 0x30000001#32 = .illegal .nonzeroField := by decide
theorem test_decode_output_bit27 : decode 0x48000000#32 = .illegal .nonzeroField := by decide
theorem test_decode_rdcell_low_bit : decode 0x65050001#32 = .illegal .nonzeroField := by decide
theorem test_decode_reserved : [0x70000000#32, 0xF0000000#32, 0xFFFFFFFF#32].map decode =
    [.illegal .reservedOpcode, .illegal .reservedOpcode, .illegal .reservedOpcode] := by decide
theorem test_decodeTableWord : decodeTableWord 32 0x65050000 = some (.rdcell 20 5) ∧ decodeTableWord 32 0 = none := by
  decide

/-! ## WellFormed smoke: for each check of R80 an ill-formed line, which the check refuses -/

theorem test_wf_bb : (SourceLine.init 16).wellFormed = false ∧ (SourceLine.init 15).wellFormed = true := by decide
theorem test_wf_x : (SourceLine.wrpix ⟨64, 0, 0⟩).wellFormed = false ∧ (SourceLine.wrpix ⟨63, 63, 0xFFFF⟩).wellFormed = true := by
  decide
theorem test_wf_y : (SourceLine.wrpix ⟨0, 64, 0⟩).wellFormed = false := by decide
theorem test_wf_color : (SourceLine.wrpix ⟨0, 0, 0x10000⟩).wellFormed = false := by decide
theorem test_wf_rgb : [SourceLine.wrpixRgb 64 0 0 0 0, .wrpixRgb 0 64 0 0 0, .wrpixRgb 0 0 32 0 0, .wrpixRgb 0 0 0 64 0,
    .wrpixRgb 0 0 0 0 32].map SourceLine.wellFormed = [false, false, false, false, false] := by decide
theorem test_wf_rdcell : (SourceLine.rdcell 64 0).wellFormed = false ∧ (SourceLine.rdcell 0 64).wellFormed = false := by
  decide
theorem test_wf_draw : (SourceLine.draw [⟨0, 0, 0⟩, ⟨64, 0, 0⟩]).wellFormed = false := by decide

/-! ## Assembler (95_test_vectors.md P2; R80) -/

theorem test_assemble_program : assembleText ["INIT 2".toList, "DRAW (5, 20, 0x8410), (5, 4, 0xF800)".toList,
    "RDCELL 5, 20".toList, "OUTPUT".toList, "CLEAR".toList] =
    some [0x10000002#32, 0x25058410#32, 0x2105F800#32, 0x65050000#32, 0x40000000#32, 0x30000000#32] := by decide
theorem test_assemble_rgb : assembleText ["WRPIX 5, 20, 31, 0, 0".toList, "GEOM".toList, "DRAW".toList] =
    some [0x2505F800#32, 0x50000000#32] := by decide
theorem test_assemble_refuses : assembleText ["INIT 16".toList] = none ∧ assembleText ["INIT x".toList] = none := by decide

/-! ## The commands -/

/-- The next state of an outcome, if there is one. -/
def nextOf : Host.Outcome State Fault Refusal → Option State
  | .next t => some t
  | .fault _ => none
  | .refused _ => none

/-- The 64x32 Propagate build right after `INIT 1` (R103). -/
def conf1 : State := { State.reset with configured := true, bb := 1, stepReg := 128, countReg := 1 }

/-- The 64x64 build, likewise. -/
def conf1Double : State := { conf1 with cfg := { Config.thisBuild with variant := .double } }

/-- A state with this word offered on the command port. -/
def offering (s : State) (w : Word) : State := { s with cmd := w, cmdValid := true }

/-- What the host can see after a step: STATUS and RESP. -/
def seen (o : Host.Outcome State Fault Refusal) : Option (Word × Word) := (nextOf o).map fun t => (statusWord t, t.resp)

/-- 95_test_vectors.md L2-B. -/
theorem test_init : seen (exec (.init 4) State.reset) = some (0x00000402#32, 0) := by decide
theorem test_init_range : [0, 9, 15].map (fun bb => seen (exec (.init (BitVec.ofNat 4 bb)) State.reset)) =
    [some (0x00000014#32, 0), some (0x00000014#32, 0), some (0x00000014#32, 0)] := by decide
/-- R104's example: `WRPIX 5, 20, 0xF800` writes FB[4][5]'s bottom triple (255, 0, 0). -/
theorem test_wrpix : (nextOf (exec (.wrpix 20 5 0xF800) conf1)).map (fun t =>
    [0, 1, 2, 3, 4, 5].map (t.channel 4 5)) = some [0, 0, 0, 255, 0, 0] := by decide
/-- L2-E and L2-D: bounds of the two builds. -/
theorem test_wrpix_bounds : seen (exec (.wrpix 32 2 0xFFFF) conf1) = some (0x00000136#32, 0) ∧
    (nextOf (exec (.wrpix 32 0 0xFFFF) conf1Double)).map (fun t => t.channel 0 0 3) = some 255 := by decide
/-- L2-E: CLEAR before INIT; R105 after it. -/
theorem test_clear_before_init : seen (exec .clear State.reset) = some (0x00000054#32, 0) := by decide
theorem test_clear : (nextOf (exec .clear { conf1 with fb := [(0, 255)] })).map (fun t => t.fb) = some [] := by decide
/-- P3: GEOM before INIT; R107 on 64x64. -/
theorem test_geom : seen (exec .geom State.reset) = some (0x00000000#32, 0x00200040#32) := by decide
theorem test_geom_double : (nextOf (exec .geom conf1Double)).map State.resp = some 0x00400040#32 := by decide
/-- R106's example: (255, 0, 0) at FB[4][5] bottom reads 0x00FF0000. -/
theorem test_rdcell : seen (exec (.rdcell 20 5) { conf1 with fb := [(fbIndex 4 5 3, 255)] }) =
    some (0x00000102#32, 0x00FF0000#32) := by decide
theorem test_rdcell_bounds : seen (exec (.rdcell 32 0) conf1) = some (0x00000136#32, 0) := by decide
/-- R130: BUSY rises with the accept step. -/
theorem test_output : seen (exec .output conf1) = some (0x00000103#32, 0) := by decide
theorem test_output_before_init : seen (exec .output State.reset) = some (0x00000054#32, 0) := by decide
/-- L2-J: an illegal word before INIT; a FAULTED block discards. -/
theorem test_illegal_before_init : seen (step (offering State.reset 0x65050001#32)) = some (0x00000044#32, 0) := by decide
theorem test_faulted_discards : seen (step (offering (State.reset.raiseFatal .notConfigured) 0x10000001#32)) =
    some (0x00000054#32, 0) := by decide
/-- P3 step 4: reset clears FAULTED. -/
theorem test_reset : seen (step { State.reset.raiseFatal .notConfigured with rst := true }) = some (0, 0) := by decide

/-- L2-C: 0x8410, 0x39E7 and 0xC618 through Replicate and GAMMA28; 0x39E7 and 0xC618 through RoundScale. -/
theorem test_ingest : [0x8410#16, 0x39E7#16, 0xC618#16].map (ingest Config.thisBuild) =
    [⟨40, 39, 40⟩, ⟨4, 4, 4⟩, ⟨126, 120, 126⟩] := by decide
theorem test_ingest_roundScale : [0x39E7#16, 0xC618#16].map
    (ingest { Config.thisBuild with expand := .roundScale }) = [⟨4, 5, 4⟩, ⟨124, 119, 124⟩] := by decide

/-! ## The trace and the sequencer -/

/-- L1-E1: a white pixel at (0, 0) with bb = 1. -/
theorem test_first_column : [0, 1, 2, 3, 4, 5, 6, 7].map (eventAt { conf1 with fb := [(0, 255), (1, 255), (2, 255)] }) =
    [some (.drive .r1 true), some (.drive .g1 true), some (.drive .b1 true), some (.drive .r2 false),
     some (.drive .g2 false), some (.drive .b2 false), some (.drive .clk true), some (.drive .clk false)] := by decide
/-- L2-H: row 0's tail is events 512..522 on 64x32. -/
theorem test_row_tail : (List.range' 512 11).map (eventAt conf1) =
    ([.drive .oe true, .wait 2, .drive .lat false, .wait 2, .drive .lat true, .drive .a false, .drive .b false,
      .drive .c false, .drive .d false, .wait 2, .drive .oe false] : List Event).map some := by decide
/-- L2-H: on 64x64 row 17's tail starts at 8908 + 512, and its address is 10001. -/
theorem test_address_double : (List.range' (8908 + 512 + 5) 5).map (eventAt conf1Double) =
    ([.drive .a true, .drive .b false, .drive .c false, .drive .d false, .drive .f true] : List Event).map some := by
  decide
/-- P1: the last event, 8368, is the final blank, and there is none after it. -/
theorem test_final_blank : eventAt conf1 8368 = some (.drive .oe true) ∧ eventAt conf1 8369 = none := by decide
/-- P1: an `ok` answer to the final blank ends the OUTPUT with ERR = NONE. -/
theorem test_output_ends : seen (step { conf1 with seq := .running 8368, lineScript := [some .ok] }) =
    some (0x00000102#32, 0) := by decide
/-- P4: a `fail` at event 523 leaves STATUS 0x322, the event before it being `D(OE,0)`. -/
theorem test_line_fail : seen (step
    { conf1 with bb := 3, stepReg := 32, countReg := 7, seq := .running 523, lineScript := [some .fail] }) =
    some (0x00000322#32, 0) := by decide
/-- R145: BestEffort goes on. -/
theorem test_best_effort : (nextOf (step
    { conf1 with
      cfg := { Config.thisBuild with policy := .bestEffort }, seq := .running 0, lineScript := [some .fail] })).map
    State.seq = some (.running 1) := by decide
/-- R194: no answer, no event; the request is out. -/
theorem test_waits : (nextOf (step { conf1 with seq := .running 0, lineScript := [none] })).map
    (fun t => (t.seq, t.outstanding, t.record)) = some (.running 0, some (.drive .r1 false), []) := by decide
/-- R191, R146: RST rises while an OUTPUT runs and a command is held; the offer still stands. -/
theorem test_reset_while_held : (nextOf (step
    { conf1 with
      seq := .running 0, lineScript := [none], cmd := 0x30000000#32, cmdValid := true, resets := [true] })).map
    (fun t => (t.rst, t.cmdValid, t.seq)) = some (true, true, .running 0) := by decide
/-- R204, R146: a request that a reset abandons stays on record. -/
theorem test_abandoned_request : (nextOf (step
    { conf1 with seq := .running 0, outstanding := some (.drive .r1 false), rst := true })).map
    (fun t => (t.seq, t.outstanding, t.record)) = some (.idle, none, [.unanswered (.drive .r1 false)]) := by decide

/-- R7, R32: a build has NLINES lines. -/
theorem test_line_count : [Variant.standard, .double].map (fun v =>
    (([.r1, .g1, .b1, .r2, .g2, .b2, .a, .b, .c, .d, .f, .clk, .lat, .oe] : List Line).filter (Line.exists v)).length) =
    [Variant.standard.nlines, Variant.double.nlines] := by decide

/-! ## Witnesses: for each statement with hypotheses, a state and operands that meet all of them -/

/-- `conf1` with an OUTPUT running at event `k`, and these inputs. -/
def runningAt (k : Nat) (ls : List LineReply) (ds : List DelayReply) : State :=
  { conf1 with seq := .running k, lineScript := ls, delayScript := ds }

/-- The same in the BestEffort build. -/
def bestEffortAt (k : Nat) (ls : List LineReply) (ds : List DelayReply) : State :=
  { runningAt k ls ds with cfg := { Config.thisBuild with policy := .bestEffort } }

theorem conf1_inv : conf1.Inv := by
  constructor
  · exact fun _ => by decide
  · exact fun k h => by cases h
  · exact ⟨by decide, fun h => by cases h⟩
  · exact ⟨by decide, by decide⟩
  · exact fun _ h c ch _ _ _ => .inl rfl
  · exact (by decide : conf1.resp.extractLsb' 24 8 = 0)
  · exact fun e h => by cases h
  · exact fun e h => by cases h

theorem runningAt_inv {k : Nat} (hk : k < 8369) (ls : List LineReply) (ds : List DelayReply) :
    (runningAt k ls ds).Inv := by
  constructor
  · exact conf1_inv.config
  · intro k' h
    cases h
    exact ⟨Nat.lt_of_lt_of_eq hk (by decide : 8369 = traceLength conf1), rfl, rfl⟩
  · exact ⟨rfl, fun h => by cases h⟩
  · exact conf1_inv.fb
  · exact conf1_inv.gamma
  · exact conf1_inv.resp
  · exact conf1_inv.record
  · exact fun e h => by cases h

theorem bestEffortAt_inv (ls : List LineReply) (ds : List DelayReply) : (bestEffortAt 0 ls ds).Inv := by
  constructor
  · exact conf1_inv.config
  · intro k' h
    cases h
    exact ⟨Nat.zero_lt_succ _, rfl, rfl⟩
  · exact ⟨rfl, fun h => by cases h⟩
  · exact conf1_inv.fb
  · exact fun _ h c ch _ _ _ => .inl rfl
  · exact conf1_inv.resp
  · exact fun e h => by cases h
  · exact fun e h => by cases h

/-- A FAULTED block: `conf1` after an out-of-bounds WRPIX. -/
def faulted1 : State := conf1.raiseFatal .outOfBounds

theorem faulted1_inv : faulted1.Inv := by
  constructor
  · exact conf1_inv.config
  · exact fun k h => by cases h
  · exact ⟨rfl, fun h => by cases h⟩
  · exact conf1_inv.fb
  · exact conf1_inv.gamma
  · exact conf1_inv.resp
  · exact conf1_inv.record
  · exact fun e h => by cases h

theorem witness_DecodeEncodeAgree : ∃ w i, decode w = .command i := ⟨0x60000000#32, .rdcell 0 0, by decide⟩

theorem witness_IllegalWordsFault : let s := offering conf1 0x70000000#32
    s.rst = false ∧ s.seq = .idle ∧ s.cmdValid = true ∧ s.faulted = false ∧ decode s.cmd = .illegal .reservedOpcode := by
  decide

theorem witness_AssembledLinesDecode :
    (SourceLine.wrpixRgb 63 63 31 63 31).wellFormed = true ∧ (SourceLine.wrpixRgb 63 63 31 64 31).wellFormed = false := by
  decide

theorem witness_DrawStopsAtTheFaultingPixel : conf1.faulted = false ∧ conf1.configured = true ∧
    (∀ q ∈ ([⟨0, 31, 0⟩] : List Pixel), q.y < conf1.cfg.variant.height) ∧ conf1.cfg.variant.height ≤ 32 ∧ 32 ≤ 63 := by
  decide

theorem witness_StepRunsDecodedCommand : let s := offering conf1 0x30000000#32
    s.rst = false ∧ s.seq = .idle ∧ s.cmdValid = true ∧ decode s.cmd = .command .clear := by decide

theorem witness_ChecksRunInOrder_faulted : let s := offering faulted1 0x30000000#32
    s.rst = false ∧ s.cmdValid = true ∧ s.seq = .idle ∧ s.faulted = true := by decide
theorem witness_ChecksRunInOrder_illegal : let s := offering State.reset 0x65050001#32
    s.rst = false ∧ s.cmdValid = true ∧ s.seq = .idle ∧ s.faulted = false ∧
      decode s.cmd = .illegal .nonzeroField := by decide
theorem witness_ChecksRunInOrder_unconfigured : let s := offering State.reset 0x2802FFFF#32
    s.rst = false ∧ s.cmdValid = true ∧ s.seq = .idle ∧ s.faulted = false ∧ s.configured = false ∧
      decode s.cmd = .command (.wrpix 32 2 0xFFFF) ∧ (∀ bb : BitVec 4, Instr.wrpix 32 2 0xFFFF ≠ .init bb) ∧
      Instr.wrpix 32 2 0xFFFF ≠ .geom := by decide
theorem witness_ChecksRunInOrder_depth : let s := offering State.reset 0x10000009#32
    s.rst = false ∧ s.cmdValid = true ∧ s.seq = .idle ∧ s.faulted = false ∧
      decode s.cmd = .command (.init 9) ∧ ((9 : BitVec 4).toNat < 1 ∨ 8 < (9 : BitVec 4).toNat) := by decide
theorem witness_ChecksRunInOrder_bounds : let s := offering conf1 0x68000000#32
    s.rst = false ∧ s.cmdValid = true ∧ s.seq = .idle ∧ s.faulted = false ∧ s.configured = true ∧
      decode s.cmd = .command (.rdcell 32 0) ∧ 2 * s.cfg.variant.rows ≤ (32 : BitVec 6).toNat := by decide
theorem witness_ChecksRunInOrder_output : let s := offering conf1 0x40000000#32
    s.rst = false ∧ s.cmdValid = true ∧ s.seq = .idle ∧ s.faulted = false ∧ s.configured = true ∧
      decode s.cmd = .command .output := by decide
theorem witness_ChecksRunInOrder_busy : let s := offering (runningAt 0 [] []) 0x30000000#32
    s.rst = false ∧ s.cmdValid = true ∧ s.seq = .running 0 := by decide
/-- The same with RST about to rise: the step's state differs from `seqStep 0 s` in RST and its list. -/
theorem witness_ChecksRunInOrder_busy_reset :
    let s := { offering (runningAt 0 [none] []) 0x30000000#32 with resets := [true, false] }
    s.rst = false ∧ s.cmdValid = true ∧ s.seq = .running 0 ∧ s.resets ≠ [] ∧ s.hold.rst = true ∧
      s.hold.resets = [false] := by decide

theorem witness_OfferIsHeldWhileBusy : ∃ t,
    (offering (runningAt 0 [some .ok] []) 0x30000000#32).rst = false ∧
    (offering (runningAt 0 [some .ok] []) 0x30000000#32).busy = true ∧
    (offering (runningAt 0 [some .ok] []) 0x30000000#32).cmdValid = true ∧
    step (offering (runningAt 0 [some .ok] []) 0x30000000#32) = .next t := by
  obtain ⟨t, h⟩ := seqStep_next_of_event (k := 0) (s := (offering (runningAt 0 [some .ok] []) 0x30000000#32).hold)
    (e := .drive .r1 false) (by decide)
  exact ⟨t, rfl, rfl, rfl, h⟩
theorem witness_OfferIsHeldWhileBusy_idle :
    conf1.rst = false ∧ conf1.cmdReady = true ∧ conf1.cmdValid = false := by decide
theorem witness_OfferIsHeldWhileBusy_accepted : let s := offering conf1 0x30000000#32
    s.rst = false ∧ s.cmdReady = true ∧ s.cmdValid = true ∧ decode s.cmd = .command .clear ∧
      Instr.clear ≠ .output := by decide

theorem witness_InitConfiguresAndZeroes : State.reset.faulted = false ∧ 1 ≤ (1 : BitVec 4).toNat ∧
    (1 : BitVec 4).toNat ≤ 8 ∧ 1 ≤ (8 : BitVec 4).toNat ∧ (8 : BitVec 4).toNat ≤ 8 := by decide
theorem witness_InitConfiguresAndZeroes_range : State.reset.faulted = false ∧ (0 : BitVec 4).toNat = 0 ∧
    9 ≤ (9 : BitVec 4).toNat := by decide
theorem witness_InitConfiguresAndZeroes_example : ∃ t, State.reset.faulted = false ∧ State.reset.seq = .idle ∧
    State.reset.cfg.variant = .standard ∧ State.reset.cfg.policy = .propagate ∧ exec (.init 4) State.reset = .next t := by
  rcases exec_cases (.init 4) State.reset with ⟨h, _⟩ | ⟨_, code, _, h⟩ | ⟨_, t, h, _⟩
  · cases h
  · exact ⟨_, rfl, rfl, rfl, rfl, h⟩
  · exact ⟨t, rfl, rfl, rfl, rfl, h⟩

theorem witness_WrpixStoresOneTriple : conf1.faulted = false ∧ conf1.configured = true ∧
    (31 : BitVec 6).toNat < 2 * conf1.cfg.variant.rows ∧ conf1.fb.wf = true := by decide
theorem witness_WrpixStoresOneTriple_bounds : conf1.faulted = false ∧ conf1.configured = true ∧
    2 * conf1.cfg.variant.rows ≤ (32 : BitVec 6).toNat := by decide
theorem witness_unconfigured : State.reset.faulted = false ∧ State.reset.configured = false := by decide
theorem witness_ClearZeroesEveryChannel : conf1.faulted = false ∧ conf1.configured = true ∧
    (31 : BitVec 6).toNat < 2 * conf1.cfg.variant.rows := by decide
theorem witness_RdcellReadsTheTriple : conf1.faulted = false ∧ conf1.configured = true ∧
    (31 : BitVec 6).toNat < 2 * conf1.cfg.variant.rows ∧ 2 * conf1.cfg.variant.rows ≤ (32 : BitVec 6).toNat ∧
    (1 : BitVec 16) ≠ 0 := by decide
theorem witness_RdcellReadsTheTriple_example : conf1.cfg = Config.thisBuild ∧ conf1.faulted = false ∧
    conf1.configured = true ∧ conf1.fb.wf = true := ⟨rfl, rfl, rfl, by decide⟩
theorem witness_GeomReportsTheGeometry : State.reset.faulted = false ∧ State.reset.cfg.variant = .standard ∧
    conf1Double.cfg.variant = .double := by decide
theorem witness_OutputStartsTheSequencer : conf1.faulted = false ∧ conf1.configured = true := by decide
theorem witness_WriteThenReadBack : conf1Double.faulted = false ∧ conf1Double.configured = true ∧
    conf1Double.fb.wf = true ∧ (63 : BitVec 6).toNat < 2 * conf1Double.cfg.variant.rows := by decide
theorem witness_PixelMapIsABijection : 15 < Variant.standard.rows ∧ 63 < 64 := by decide
theorem witness_CommandsAreIdempotent : ∃ t, conf1.fb.wf = true ∧ Instr.clear ≠ .output ∧ exec .clear conf1 = .next t := by
  rcases exec_cases .clear conf1 with ⟨h, _⟩ | ⟨_, code, _, h⟩ | ⟨_, t, h, _⟩
  · cases h
  · exact ⟨_, by decide, by decide, h⟩
  · exact ⟨t, by decide, by decide, h⟩

theorem witness_ExtremeColoursAreStoredExactly : Config.thisBuild.Legal ∧
    (30 : BitVec 5).toNat < (31 : BitVec 5).toNat ∧ (62 : BitVec 6).toNat < (63 : BitVec 6).toNat := by decide +kernel

/-- A step that answers a state, from its five cases. -/
theorem step_answers {s : State} (h : s.seq = .idle) : ∃ t, step s = .next t := by
  rcases step_cases s with ⟨_, e⟩ | ⟨_, k, hk, _⟩ | ⟨_, _, _, i, _, e⟩ | ⟨_, _, _, _, _, e⟩ | ⟨_, _, _, e⟩
  · exact ⟨_, e⟩
  · rw [h] at hk
    cases hk
  · rcases exec_cases i s.driveNext with ⟨_, e'⟩ | ⟨_, _, _, e'⟩ | ⟨_, _, e', _⟩ <;> exact ⟨_, e.trans e'⟩
  · rcases acceptIllegal_cases s.driveNext with ⟨_, e'⟩ | ⟨_, e'⟩ <;> exact ⟨_, e.trans e'⟩
  · exact ⟨_, e⟩

theorem witness_FatalEntryWritesErrAndFaultedOnly : ∃ t, step (offering State.reset 0#32) = .next t ∧
    (offering State.reset 0#32).faulted = false ∧ t.faulted = true := by
  obtain ⟨t, h⟩ := step_answers (s := offering State.reset 0#32) rfl
  have hr : (nextOf (step (offering State.reset 0#32))).map State.faulted = some true := by decide
  rw [h] at hr
  exact ⟨t, h, rfl, Option.some.inj hr⟩

theorem witness_FaultedDiscardsEveryCommand : faulted1.Inv ∧ faulted1.faulted = true ∧ faulted1.rst = false :=
  ⟨faulted1_inv, rfl, rfl⟩
theorem witness_FaultedIsSticky : faulted1.Inv ∧ faulted1.faulted = true ∧ faulted1.noReset = true :=
  ⟨faulted1_inv, rfl, rfl⟩

theorem witness_RespIsWrittenByGeomAndRdcellOnly_reset : ∃ t, step { faulted1 with rst := true } = .next t ∧
    ({ faulted1 with rst := true } : State).rst = true := by
  obtain ⟨t, h⟩ := step_answers (s := { faulted1 with rst := true }) rfl
  exact ⟨t, h, rfl⟩

/-- GEOM on the port of a block whose RESP is 0: the step changes RESP. -/
theorem witness_RespIsWrittenByGeomAndRdcellOnly : ∃ t, step (offering conf1 0x50000000#32) = .next t ∧
    (offering conf1 0x50000000#32).rst = false ∧ t.resp ≠ (offering conf1 0x50000000#32).resp := by
  obtain ⟨t, h⟩ := step_answers (s := offering conf1 0x50000000#32) rfl
  have hr : (nextOf (step (offering conf1 0x50000000#32))).map State.resp = some 0x00200040#32 := by decide
  rw [h] at hr
  exact ⟨t, h, rfl, by rw [Option.some.inj hr]; decide⟩

/-- INIT 1 on the port after reset: the step configures the block. -/
theorem witness_ConfigurationIsWrittenByInitOnly : ∃ t, step (offering State.reset 0x10000001#32) = .next t ∧
    (offering State.reset 0x10000001#32).rst = false ∧
    t.configured ≠ (offering State.reset 0x10000001#32).configured := by
  obtain ⟨t, h⟩ := step_answers (s := offering State.reset 0x10000001#32) rfl
  have hr : (nextOf (step (offering State.reset 0x10000001#32))).map State.configured = some true := by decide
  rw [h] at hr
  exact ⟨t, h, rfl, by rw [Option.some.inj hr]; decide⟩

theorem witness_UnconfiguredValuesAreNotRead : ∃ t, State.reset.configured = false ∧ State.reset.seq = .idle ∧
    step State.reset = .next t := by
  obtain ⟨t, h⟩ := step_answers (s := State.reset) rfl
  exact ⟨t, rfl, rfl, h⟩

theorem witness_ResetSetsTheBlock : ∃ t, step { faulted1 with rst := true } = .next t ∧
    ({ faulted1 with rst := true } : State).faulted = true ∧ t.faulted = false := by
  obtain ⟨t, h⟩ := step_answers (s := { faulted1 with rst := true }) rfl
  have hr : (nextOf (step { faulted1 with rst := true })).map State.faulted = some false := by decide
  rw [h] at hr
  exact ⟨t, h, rfl, Option.some.inj hr⟩

theorem witness_OnlyTheSequencerDrivesLines : ∃ t, step conf1 = .next t ∧ (conf1.rst = true ∨ conf1.seq = .idle) := by
  obtain ⟨t, h⟩ := step_answers (s := conf1) rfl
  exact ⟨t, h, .inr rfl⟩

theorem witness_StatusLayoutAndErrUpdates : ∃ t, (offering conf1 0x30000000#32).Inv ∧
    step (offering conf1 0x30000000#32) = .next t ∧ (offering conf1 0x30000000#32).rst = false ∧
    (offering conf1 0x30000000#32).faulted = false ∧ decode (offering conf1 0x30000000#32).cmd = .command .clear := by
  obtain ⟨t, h⟩ := step_answers (s := offering conf1 0x30000000#32) rfl
  exact ⟨t, inv_of_sameBlock (s := conf1) (by constructor <;> rfl) conf1_inv, h, rfl, rfl, by decide⟩
theorem witness_StatusLayoutAndErrUpdates_output : (offering conf1 0x40000000#32).Inv ∧
    decode (offering conf1 0x40000000#32).cmd = .command .output :=
  ⟨inv_of_sameBlock (s := conf1) (by constructor <;> rfl) conf1_inv, by decide⟩
theorem witness_StatusLayoutAndErrUpdates_busy : ∃ t, (runningAt 8368 [some .ok] []).Inv ∧
    step (runningAt 8368 [some .ok] []) = .next t ∧ (runningAt 8368 [some .ok] []).busy = true ∧ t.busy = false := by
  obtain ⟨t, h⟩ := seqStep_next_of_event (k := 8368) (s := (runningAt 8368 [some .ok] []).hold) (e := .drive .oe true)
    (by decide)
  have hs : step (runningAt 8368 [some .ok] []) = .next t := h
  have hr : (nextOf (step (runningAt 8368 [some .ok] []))).map State.busy = some false := by decide
  rw [hs] at hr
  exact ⟨t, runningAt_inv (by decide) _ _, hs, rfl, Option.some.inj hr⟩

theorem witness_StepKeepsInvariant : ∃ t, conf1.Inv ∧ step conf1 = .next t := by
  obtain ⟨t, h⟩ := step_answers (s := conf1) rfl
  exact ⟨t, conf1_inv, h⟩

theorem witness_CountersAdvanceWithTheIndex : 0 < conf1.countReg.toNat ∧
    position conf1 (15 * 523 + 8 * 63 + 7) = some (.column 0 15 63 7) := by decide
theorem witness_ColumnComparesAndPulses : 0 < conf1.countReg.toNat ∧ 15 < conf1.cfg.variant.rows ∧ 63 < 64 ∧ 5 < 6 := by
  decide
theorem witness_RowTailLatchesAndAddresses : 0 < conf1Double.countReg.toNat ∧ 31 < conf1Double.cfg.variant.rows ∧
    4 < conf1Double.cfg.variant.naddr := by decide
theorem witness_AddressLinesCarryTheRow : 31 < Variant.double.rows ∧ 4 < Variant.double.naddr := by decide
theorem witness_FLineOnlyInTheDoubleVariant : conf1.cfg.variant = .standard ∧ conf1Double.cfg.variant = .double ∧
    0 < conf1Double.countReg.toNat := by decide
theorem witness_UnblankOncePerRow : (scanTrace conf1)[522]? = some (.drive .oe false) := by decide +kernel
theorem witness_AddressChangesOnlyWhileBlanked : Line.d ∈ ([.lat, .a, .b, .c, .d, .f] : List Line) ∧
    (scanTrace conf1)[520]? = some (.drive .d false) := by decide +kernel
theorem witness_TraceBeginsAndEnds : 0 < conf1.countReg.toNat ∧ 511 < 512 ∧
    (scanTrace conf1)[511]? = some (.drive .clk false) := by decide +kernel
theorem witness_ValueIsHighInItsFirstSubFrames : 1 ≤ (8 : BitVec 4).toNat ∧ (8 : BitVec 4).toNat ≤ 8 ∧
    254 < (countOf 8).toNat ∧ 1 ≤ (1 : BitVec 4).toNat ∧ 0 < (countOf 1).toNat := by decide

theorem witness_TraceIsFixedWhileBusy : ∃ t, step (runningAt 0 [some .ok] []) = .next t ∧
    (runningAt 0 [some .ok] []).rst = false ∧ (runningAt 0 [some .ok] []).busy = true := by
  obtain ⟨t, h⟩ := seqStep_next_of_event (k := 0) (s := (runningAt 0 [some .ok] []).hold) (e := .drive .r1 false)
    (by decide)
  exact ⟨t, h, rfl, rfl⟩

theorem witness_PropagateStep_drive (reply : LineReply) : let s := runningAt 0 [reply] []
    s.rst = false ∧ s.seq = .running 0 ∧ s.cfg.policy = .propagate ∧
      (scanTrace s)[0]? = some (.drive .r1 false) ∧ s.lineReply = reply :=
  ⟨rfl, rfl, rfl, (by decide +kernel : (scanTrace conf1)[0]? = some (.drive .r1 false)), rfl⟩
theorem witness_PropagateStep_wait (reply : DelayReply) : let s := runningAt 513 [] [reply]
    s.rst = false ∧ s.seq = .running 513 ∧ s.cfg.policy = .propagate ∧
      (scanTrace s)[513]? = some (.wait 2) ∧ s.delayReply = reply :=
  ⟨rfl, rfl, rfl, (by decide +kernel : (scanTrace conf1)[513]? = some (.wait 2)), rfl⟩
theorem witness_BestEffortStep (reply : LineReply) : let s := bestEffortAt 0 [reply] []
    s.rst = false ∧ s.seq = .running 0 ∧ s.cfg.policy = .bestEffort ∧
      (scanTrace s)[0]? = some (.drive .r1 false) ∧ s.lineReply = reply :=
  ⟨rfl, rfl, rfl, (by decide +kernel : (scanTrace conf1)[0]? = some (.drive .r1 false)), rfl⟩
theorem witness_BestEffortStep_wait (reply : DelayReply) : let s := bestEffortAt 513 [] [reply]
    s.rst = false ∧ s.seq = .running 513 ∧ s.cfg.policy = .bestEffort ∧
      (scanTrace s)[513]? = some (.wait 2) ∧ s.delayReply = reply :=
  ⟨rfl, rfl, rfl, (by decide +kernel : (scanTrace conf1)[513]? = some (.wait 2)), rfl⟩
theorem witness_LineFailIsNotFatal : let s := runningAt 0 [some .fail] []
    s.Inv ∧ s.rst = false ∧ s.seq = .running 0 ∧ s.cfg.policy = .propagate ∧
      (scanTrace s)[0]? = some (.drive .r1 false) ∧ s.lineReply = some .fail :=
  ⟨runningAt_inv (by decide) _ _, rfl, rfl, rfl,
    (by decide +kernel : (scanTrace conf1)[0]? = some (.drive .r1 false)), rfl⟩

theorem runningAt_lineScript (k : Nat) (ls : List LineReply) (ds : List DelayReply) :
    (runningAt k ls ds).lineScript = ls := rfl
theorem runningAt_delayScript (k : Nat) (ls : List LineReply) (ds : List DelayReply) :
    (runningAt k ls ds).delayScript = ds := rfl
theorem bestEffortAt_lineScript (k : Nat) (ls : List LineReply) (ds : List DelayReply) :
    (bestEffortAt k ls ds).lineScript = ls := rfl
theorem bestEffortAt_delayScript (k : Nat) (ls : List LineReply) (ds : List DelayReply) :
    (bestEffortAt k ls ds).delayScript = ds := rfl

/-- An answer to every drive of `conf1`'s trace, and a completion to every wait. -/
def allAnswered : State := runningAt 0 (lineRepliesFor .ok (scanTrace conf1)) (delayRepliesFor (scanTrace conf1))

theorem allAnswered_trace : scanTrace allAnswered = scanTrace conf1 := by
  unfold allAnswered runningAt scanTrace subFrame rowShift columnEvents State.channel
  rfl

/-- The hypotheses of OutputIssuesItsWholeTrace and of LineLevelsAfterOutput. -/
theorem witness_OutputIssuesItsWholeTrace : let s := allAnswered
    s.Inv ∧ s.seq = .running 0 ∧ s.noReset = true ∧ s.lineScript = lineRepliesFor .ok (scanTrace s) ++ [] ∧
      s.delayScript = delayRepliesFor (scanTrace s) ++ [] := by
  refine ⟨runningAt_inv (by decide) _ _, rfl, rfl, ?_, ?_⟩ <;> rw [allAnswered_trace, List.append_nil]
  · exact runningAt_lineScript _ _ _
  · exact runningAt_delayScript _ _ _

/-- Every request answered `ok` but the drive at index `k`, which fails. -/
def failingAt (k : Nat) : State :=
  runningAt 0 (lineRepliesFor .ok ((scanTrace conf1).take k) ++ [some .fail]) (delayRepliesFor ((scanTrace conf1).take k))

theorem failingAt_trace (k : Nat) : scanTrace (failingAt k) = scanTrace conf1 := by
  unfold failingAt runningAt scanTrace subFrame rowShift columnEvents State.channel
  rfl

/-- The hypotheses hold at every index of a drive. -/
theorem witness_OutputStopsAtTheFirstFailure (k : Nat) (l : Line) (v : Level)
    (h : (scanTrace conf1)[k]? = some (.drive l v)) : let s := failingAt k
    s.Inv ∧ s.seq = .running 0 ∧ s.noReset = true ∧ s.cfg.policy = .propagate ∧
      (scanTrace s)[k]? = some (.drive l v) ∧
      s.lineScript = lineRepliesFor .ok ((scanTrace s).take k) ++ some .fail :: [] ∧
      s.delayScript = delayRepliesFor ((scanTrace s).take k) ++ [] := by
  refine ⟨runningAt_inv (by decide) _ _, rfl, rfl, rfl, ?_, ?_, ?_⟩ <;> rw [failingAt_trace]
  · exact h
  · exact runningAt_lineScript _ _ _
  · rw [List.append_nil]
    exact runningAt_delayScript _ _ _
/-- The first and the last drive of `conf1`'s trace, and one after a wait. -/
theorem witness_OutputStopsAtTheFirstFailure_drives : (scanTrace conf1)[0]? = some (.drive .r1 false) ∧
    (scanTrace conf1)[514]? = some (.drive .lat false) ∧ (scanTrace conf1)[8368]? = some (.drive .oe true) := by
  decide +kernel

/-- A failure of every drive in the BestEffort build. -/
def allFail : State :=
  bestEffortAt 0 ((List.replicate ((scanTrace conf1).filter Event.isDrive).length Answer.fail).map some)
    (delayRepliesFor (scanTrace conf1))

theorem allFail_trace : scanTrace allFail = scanTrace conf1 := by
  unfold allFail bestEffortAt runningAt scanTrace subFrame rowShift columnEvents State.channel
  rfl

theorem witness_BestEffortAlwaysCompletes : let s := allFail
    let answers := List.replicate ((scanTrace conf1).filter Event.isDrive).length Answer.fail
    s.Inv ∧ s.seq = .running 0 ∧ s.noReset = true ∧ s.cfg.policy = .bestEffort ∧
      answers.length = ((scanTrace s).filter Event.isDrive).length ∧ s.lineScript = answers.map some ++ [] ∧
      s.delayScript = delayRepliesFor (scanTrace s) ++ [] := by
  refine ⟨bestEffortAt_inv _ _, rfl, rfl, rfl, ?_, ?_, ?_⟩
  · rw [allFail_trace]
    exact List.length_replicate
  · rw [List.append_nil]
    exact bestEffortAt_lineScript _ _ _
  · rw [allFail_trace, List.append_nil]
    exact bestEffortAt_delayScript _ _ _

theorem witness_LineLevelsFollowTheAnswers (answer : Answer) : ∃ t, step (bestEffortAt 0 [some answer] []) = .next t ∧
    (bestEffortAt 0 [some answer] []).rst = false ∧ (bestEffortAt 0 [some answer] []).seq = .running 0 ∧
    eventAt (bestEffortAt 0 [some answer] []) 0 = some (.drive .r1 false) ∧
    (bestEffortAt 0 [some answer] []).lineReply = some answer := by
  obtain ⟨t, h⟩ := seqStep_next_of_event (k := 0) (s := (bestEffortAt 0 [some answer] []).hold) (e := .drive .r1 false)
    (by decide : eventAt conf1 0 = some (.drive .r1 false))
  exact ⟨t, h, rfl, rfl, (by decide : eventAt conf1 0 = some (.drive .r1 false)), rfl⟩
theorem witness_LineLevelsFollowTheAnswers_none : ∃ t, step conf1 = .next t ∧ ∀ k, conf1.seq ≠ .running k := by
  obtain ⟨t, h⟩ := step_answers (s := conf1) rfl
  exact ⟨t, h, fun k hk => by cases hk⟩

theorem witness_EndedRunsStayFinal : conf1.Inv ∧ conf1.ended = true ∧ conf1.rst = false ∧ (runningAt 0 [] []).Inv ∧
    (runningAt 0 [] []).busy = true :=
  ⟨conf1_inv, rfl, rfl, runningAt_inv (by decide) _ _, rfl⟩
/-- A run that has ended while a reset stands and another is to come. -/
theorem witness_EndedRunsStayFinal_reset : let s := { conf1 with rst := true, resets := [true] }
    s.Inv ∧ s.ended = true ∧ s.rst = true :=
  ⟨inv_of_sameBlock (s := conf1) (by constructor <;> rfl) conf1_inv, rfl, rfl⟩

/-- `conf1` with the first drive of an OUTPUT out and not answered. -/
def awaiting (reply : LineReply) (rst : Bool) : State :=
  { runningAt 0 [reply] [] with outstanding := some (.drive .r1 false), rst := rst }

theorem awaiting_inv (reply : LineReply) (rst : Bool) : (awaiting reply rst).Inv := by
  constructor
  · exact conf1_inv.config
  · exact (runningAt_inv (k := 0) (by decide) [reply] []).seq
  · exact ⟨rfl, fun h => by cases h⟩
  · exact conf1_inv.fb
  · exact conf1_inv.gamma
  · exact conf1_inv.resp
  · exact conf1_inv.record
  · intro e h
    cases h
    exact (by decide : eventAt conf1 0 = some (.drive .r1 false))

theorem witness_EveryIssuedRequestIsRecorded_reset : ∃ t, (awaiting none true).Inv ∧
    step (awaiting none true) = .next t ∧ (awaiting none true).rst = true :=
  ⟨_, awaiting_inv _ _, rfl, rfl⟩
theorem witness_EveryIssuedRequestIsRecorded_idle : ∃ t, conf1.Inv ∧ step conf1 = .next t ∧ conf1.seq = .idle := by
  obtain ⟨t, h⟩ := step_answers (s := conf1) rfl
  exact ⟨t, conf1_inv, h, rfl⟩
theorem witness_EveryIssuedRequestIsRecorded_running (reply : LineReply) : ∃ t, (awaiting reply false).Inv ∧
    step (awaiting reply false) = .next t ∧ (awaiting reply false).rst = false ∧
    (awaiting reply false).seq = .running 0 ∧ (scanTrace (awaiting reply false))[0]? = some (.drive .r1 false) ∧
    (awaiting reply false).outstanding ≠ none ∧ (runningAt 0 [reply] []).outstanding = none := by
  obtain ⟨t, h⟩ := seqStep_next_of_event (k := 0) (s := (awaiting reply false).hold) (e := .drive .r1 false)
    (by decide : eventAt conf1 0 = some (.drive .r1 false))
  exact ⟨t, awaiting_inv _ _, h, rfl, rfl, (by decide +kernel : (scanTrace conf1)[0]? = some (.drive .r1 false)),
    (fun h => by cases h), rfl⟩

end Sys2Proof.Tests
end

section
/-! The build (R3): each part of a step leaves the build parameters as they are, and so does the step. -/

namespace Sys2Proof.Machine

/-- Whatever follows an answered drive, under either failure policy, leaves the build as it is. -/
@[simp] theorem afterDrive_cfg (k : Nat) (l : Line) (v : Level) (answer : Answer) (s : State) :
    (afterDrive k l v answer s).cfg = s.cfg := by
  unfold afterDrive
  split <;> simp

@[simp] theorem afterWait_cfg (k us : Nat) (s : State) : (afterWait k us s).cfg = s.cfg := by
  simp [afterWait]

theorem seqStep_cfg {k : Nat} {s t : State} (h : seqStep k s = .next t) : t.cfg = s.cfg := by
  obtain ⟨_, _, _, _, rfl⟩ | ⟨_, _, _, _, _, rfl⟩ | ⟨_, _, _, rfl⟩ | ⟨_, _, _, rfl⟩ := seqStep_cases h
  all_goals simp

theorem Succeeds.cfg {s t : State} {i : Instr} (h : Succeeds s t i) : t.cfg = s.cfg := by
  cases i with
  | init bb =>
    obtain ⟨_, rfl⟩ := h
    rfl
  | wrpix y x color =>
    obtain ⟨_, _, rfl⟩ := h
    rfl
  | clear =>
    obtain ⟨_, rfl⟩ := h
    rfl
  | output =>
    obtain ⟨_, rfl⟩ := h
    rfl
  | geom =>
    cases h
    rfl
  | rdcell y x =>
    obtain ⟨_, _, rfl⟩ := h
    rfl

theorem exec_cfg {i : Instr} {s t : State} (h : exec i s = .next t) : t.cfg = s.cfg := by
  obtain ⟨_, he⟩ | ⟨_, code, _, he⟩ | ⟨_, u, he, hu⟩ := exec_cases i s
  · cases he.symm.trans h
    rfl
  · cases he.symm.trans h
    exact raiseFatal_cfg code s
  · cases he.symm.trans h
    exact hu.cfg

theorem acceptIllegal_cfg {s t : State} (h : acceptIllegal s = .next t) : t.cfg = s.cfg := by
  obtain ⟨_, he⟩ | ⟨_, he⟩ := acceptIllegal_cases s
  · cases he.symm.trans h
    rfl
  · cases he.symm.trans h
    exact raiseFatal_cfg .illegalCommand s

/-- Whatever a step does (reset, a sequencer event, an accepted word or the pins alone), the build stays. -/
theorem step_cfg {s t : State} (h : step s = .next t) : t.cfg = s.cfg := by
  obtain ⟨_, he⟩ | ⟨_, k, _, he⟩ | ⟨_, _, _, i, _, he⟩ | ⟨_, _, _, _, _, he⟩ | ⟨_, _, _, he⟩ := step_cases s
  · cases he.symm.trans h
    simp
  · exact (seqStep_cfg (he.symm.trans h)).trans (hold_cfg s)
  · exact (exec_cfg (he.symm.trans h)).trans (driveNext_cfg s)
  · exact (acceptIllegal_cfg (he.symm.trans h)).trans (driveNext_cfg s)
  · cases he.symm.trans h
    exact driveNext_cfg s

/-- Settles O35: every kind of step leaves the build parameters as they are (`step_cfg`). -/
theorem buildNeverChanges : Obligations.BuildNeverChanges :=
  fun _ _ h => step_cfg h

end Sys2Proof.Machine
end

section
/-! RESP (R25): the sequencer and the illegal words leave it as it is, and so does a command that is discarded or fails;
of those that succeed, GEOM and RDCELL alone write it. -/

namespace Sys2Proof.Machine

/-- Whatever follows an answered drive, under either failure policy, leaves RESP as it is. -/
@[simp] theorem afterDrive_resp (k : Nat) (l : Line) (v : Level) (answer : Answer) (s : State) :
    (afterDrive k l v answer s).resp = s.resp := by
  unfold afterDrive
  split <;> simp

@[simp] theorem afterWait_resp (k us : Nat) (s : State) : (afterWait k us s).resp = s.resp := by
  simp [afterWait]

theorem seqStep_resp {k : Nat} {s t : State} (h : seqStep k s = .next t) : t.resp = s.resp := by
  obtain ⟨_, _, _, _, rfl⟩ | ⟨_, _, _, _, _, rfl⟩ | ⟨_, _, _, rfl⟩ | ⟨_, _, _, rfl⟩ := seqStep_cases h
  all_goals simp

theorem acceptIllegal_resp {s t : State} (h : acceptIllegal s = .next t) : t.resp = s.resp := by
  obtain ⟨_, he⟩ | ⟨_, he⟩ := acceptIllegal_cases s
  · cases he.symm.trans h
    rfl
  · cases he.symm.trans h
    exact raiseFatal_resp .illegalCommand s

/-- A command that succeeds leaves FAULTED as it is. -/
theorem Succeeds.faulted {s t : State} {i : Instr} (h : Succeeds s t i) : t.faulted = s.faulted := by
  cases i with
  | init bb =>
    obtain ⟨_, rfl⟩ := h
    rfl
  | wrpix y x color =>
    obtain ⟨_, _, rfl⟩ := h
    rfl
  | clear =>
    obtain ⟨_, rfl⟩ := h
    rfl
  | output =>
    obtain ⟨_, rfl⟩ := h
    rfl
  | geom =>
    cases h
    rfl
  | rdcell y x =>
    obtain ⟨_, _, rfl⟩ := h
    rfl

/-- A command that succeeds and changes RESP is GEOM or RDCELL. -/
theorem Succeeds.geom_or_rdcell_of_resp_ne {s t : State} {i : Instr} (h : Succeeds s t i)
    (hne : t.resp ≠ s.resp) : i = .geom ∨ ∃ y x, i = .rdcell y x := by
  cases i with
  | init bb =>
    obtain ⟨_, rfl⟩ := h
    exact absurd rfl hne
  | wrpix y x color =>
    obtain ⟨_, _, rfl⟩ := h
    exact absurd rfl hne
  | clear =>
    obtain ⟨_, rfl⟩ := h
    exact absurd rfl hne
  | output =>
    obtain ⟨_, rfl⟩ := h
    exact absurd rfl hne
  | geom => exact .inl rfl
  | rdcell y x => exact .inr ⟨y, x, rfl⟩

/-- A discarded or failing command leaves RESP as it is, so one that changes it succeeds. -/
theorem exec_succeeds_of_resp_ne {i : Instr} {s t : State} (h : exec i s = .next t) (hne : t.resp ≠ s.resp) :
    s.faulted = false ∧ Succeeds s t i := by
  obtain ⟨_, he⟩ | ⟨_, code, _, he⟩ | ⟨hf, u, he, hu⟩ := exec_cases i s
  · cases he.symm.trans h
    exact absurd rfl hne
  · cases he.symm.trans h
    exact absurd (raiseFatal_resp code s) hne
  · cases he.symm.trans h
    exact ⟨hf, hu⟩

/-- A step without a reset that changes RESP accepts a legal command, which succeeds in the state whose pins have
moved on. -/
theorem step_succeeds_of_resp_ne {s t : State} (h : step s = .next t) (hrst : s.rst = false)
    (hne : t.resp ≠ s.resp) :
    s.seq = .idle ∧ s.cmdValid = true ∧ s.faulted = false ∧
      ∃ i, decode s.cmd = .command i ∧ Succeeds s.driveNext t i := by
  obtain ⟨hr, _⟩ | ⟨_, k, _, he⟩ | ⟨_, hseq, hvalid, i, hd, he⟩ | ⟨_, _, _, _, _, he⟩ | ⟨_, _, _, he⟩ := step_cases s
  · simp [hr] at hrst
  · exact absurd ((seqStep_resp (he.symm.trans h)).trans (hold_resp s)) hne
  · obtain ⟨hf, hsucc⟩ := exec_succeeds_of_resp_ne (he.symm.trans h) (by simpa using hne)
    exact ⟨hseq, hvalid, by simpa using hf, i, hd, hsucc⟩
  · exact absurd ((acceptIllegal_resp (he.symm.trans h)).trans (driveNext_resp s)) hne
  · cases he.symm.trans h
    exact absurd (driveNext_resp s) hne

theorem step_of_rst {s : State} (hrst : s.rst = true) : step s = .next s.resetBlock.hold := by
  simp [step, hrst]

/-- A reset step sets RESP to 0 (R190). -/
theorem step_resp_of_rst {s t : State} (h : step s = .next t) (hrst : s.rst = true) : t.resp = 0 := by
  cases (step_of_rst hrst).symm.trans h
  simp

/-- Settles O29: a step that changes RESP accepts a command that succeeds (`step_succeeds_of_resp_ne`), and of those
only GEOM and RDCELL change it (`Succeeds.geom_or_rdcell_of_resp_ne`). -/
theorem respIsWrittenByGeomAndRdcellOnly : Obligations.RespIsWrittenByGeomAndRdcellOnly := by
  refine ⟨rfl, fun _ _ => step_resp_of_rst, fun s t h hrst hne => ?_⟩
  obtain ⟨hseq, hvalid, hf, i, hd, hsucc⟩ := step_succeeds_of_resp_ne h hrst hne
  have hft : t.faulted = false := by simpa [hf] using hsucc.faulted
  refine ⟨hseq, hvalid, hft, ?_⟩
  obtain rfl | ⟨y, x, rfl⟩ := hsucc.geom_or_rdcell_of_resp_ne (by simpa using hne)
  · exact .inl hd
  · exact .inr ⟨y, x, hd⟩

end Sys2Proof.Machine
end

section
/-! What the decoder answers (R70 to R78), said once: the format the opcode selects, the fields that spell each command,
and the words of each clause of R78. -/

namespace Sys2Proof

theorem opField_lt (w : Word) : opField w < 16 := (w.extractLsb' 28 4).isLt

theorem whenZero_eq_command_iff {n : Nat} {zero : BitVec n} {i j : Instr} :
    whenZero zero i = .command j ↔ zero = 0 ∧ i = j := by
  unfold whenZero
  split
  case isTrue h => simp [h]
  case isFalse h => exact iff_of_false (by simp) fun ⟨hz, _⟩ => h hz

theorem whenZero_eq_illegal_iff {n : Nat} {zero : BitVec n} {i : Instr} {why : Illegal} :
    whenZero zero i = .illegal why ↔ zero ≠ 0 ∧ .nonzeroField = why := by
  unfold whenZero
  split
  case isTrue h => simp [h]
  case isFalse h => simp only [Decoded.illegal.injEq, ne_eq, h, not_false_eq_true, true_and]

/-- The opcode alone selects the format (R70, R71). -/
theorem decode_cases (w : Word) :
    (opField w = 1 ∧ decode w = whenZero (zeroI w) (.init (bbField w))) ∨
    (opField w = 2 ∧ decode w = .command (.wrpix (yField w) (xField w) (colorField w))) ∨
    (opField w = 3 ∧ decode w = whenZero (zeroN w) .clear) ∨
    (opField w = 4 ∧ decode w = whenZero (zeroN w) .output) ∨
    (opField w = 5 ∧ decode w = whenZero (zeroN w) .geom) ∨
    (opField w = 6 ∧ decode w = whenZero (zeroX w) (.rdcell (yField w) (xField w))) ∨
    ((opField w = 0 ∨ 7 ≤ opField w) ∧ decode w = .illegal .reservedOpcode) := by
  unfold decode
  split
  case h_7 h1 h2 h3 h4 h5 h6 =>
    have hop : opField w = 0 ∨ 7 ≤ opField w := by
      simp only [imp_false] at h1 h2 h3 h4 h5 h6
      omega
    simp [hop]
  all_goals simp [*]

/-- The fields a word must have to be a command's word (R72 to R75). -/
def Instr.SpelledBy (w : Word) : Instr → Prop
  | .init bb => opField w = 1 ∧ zeroI w = 0 ∧ bbField w = bb
  | .wrpix y x color => opField w = 2 ∧ yField w = y ∧ xField w = x ∧ colorField w = color
  | .clear => opField w = 3 ∧ zeroN w = 0
  | .output => opField w = 4 ∧ zeroN w = 0
  | .geom => opField w = 5 ∧ zeroN w = 0
  | .rdcell y x => opField w = 6 ∧ zeroX w = 0 ∧ yField w = y ∧ xField w = x

theorem spelledBy_of_decode {w : Word} {i : Instr} (h : decode w = .command i) : i.SpelledBy w := by
  obtain ⟨hop, hd⟩ | ⟨hop, hd⟩ | ⟨hop, hd⟩ | ⟨hop, hd⟩ | ⟨hop, hd⟩ | ⟨hop, hd⟩ | ⟨_, hd⟩ := decode_cases w
  all_goals rw [hd] at h
  · obtain ⟨hzero, rfl⟩ := whenZero_eq_command_iff.mp h
    exact ⟨hop, hzero, rfl⟩
  · cases h
    exact ⟨hop, rfl, rfl, rfl⟩
  · obtain ⟨hzero, rfl⟩ := whenZero_eq_command_iff.mp h
    exact ⟨hop, hzero⟩
  · obtain ⟨hzero, rfl⟩ := whenZero_eq_command_iff.mp h
    exact ⟨hop, hzero⟩
  · obtain ⟨hzero, rfl⟩ := whenZero_eq_command_iff.mp h
    exact ⟨hop, hzero⟩
  · obtain ⟨hzero, rfl⟩ := whenZero_eq_command_iff.mp h
    exact ⟨hop, hzero, rfl, rfl⟩
  · cases h

theorem decode_of_spelledBy {w : Word} {i : Instr} (h : i.SpelledBy w) : decode w = .command i := by
  cases i with
  | init bb =>
    obtain ⟨hop, hzero, rfl⟩ := h
    simp [decode, hop, whenZero, hzero]
  | wrpix y x color =>
    obtain ⟨hop, rfl, rfl, rfl⟩ := h
    simp [decode, hop]
  | clear =>
    obtain ⟨hop, hzero⟩ := h
    simp [decode, hop, whenZero, hzero]
  | output =>
    obtain ⟨hop, hzero⟩ := h
    simp [decode, hop, whenZero, hzero]
  | geom =>
    obtain ⟨hop, hzero⟩ := h
    simp [decode, hop, whenZero, hzero]
  | rdcell y x =>
    obtain ⟨hop, hzero, rfl, rfl⟩ := h
    simp [decode, hop, whenZero, hzero]

/-- R78 clause 1. -/
theorem decode_eq_reservedOpcode_iff {w : Word} :
    decode w = .illegal .reservedOpcode ↔ opField w = 0 ∨ 7 ≤ opField w := by
  obtain ⟨hop, hd⟩ | ⟨hop, hd⟩ | ⟨hop, hd⟩ | ⟨hop, hd⟩ | ⟨hop, hd⟩ | ⟨hop, hd⟩ | ⟨hop, hd⟩ := decode_cases w
  all_goals simp [hd, hop, whenZero_eq_illegal_iff]

/-- R78 clause 2. -/
theorem decode_eq_nonzeroField_iff {w : Word} :
    decode w = .illegal .nonzeroField ↔
      ((opField w = 3 ∨ opField w = 4 ∨ opField w = 5) ∧ zeroN w ≠ 0) ∨ (opField w = 1 ∧ zeroI w ≠ 0) ∨
        (opField w = 6 ∧ zeroX w ≠ 0) := by
  obtain ⟨hop, hd⟩ | ⟨hop, hd⟩ | ⟨hop, hd⟩ | ⟨hop, hd⟩ | ⟨hop, hd⟩ | ⟨hop, hd⟩ | ⟨hop, hd⟩ := decode_cases w
  case inr.inr.inr.inr.inr.inr => exact iff_of_false (by simp [hd]) (by omega)
  all_goals simp [hd, hop, whenZero_eq_illegal_iff]

end Sys2Proof
end

section
/-! The opcode map (R77): each row's mask and match, as conditions on the fields; so the row of a decoded command selects
its word, and a word that a row selects decodes to the row's command. -/

namespace Sys2Proof

theorem eq_append_iff {m n : Nat} {w : BitVec (m + n)} {a : BitVec m} {b : BitVec n} :
    w = a ++ b ↔ w.extractLsb' n m = a ∧ w.extractLsb' 0 n = b := by
  constructor
  · rintro rfl
    exact ⟨BitVec.extractLsb'_append_eq_left, BitVec.extractLsb'_append_eq_right⟩
  · rintro ⟨rfl, rfl⟩
    simp

/-- A mask and match written as two parts select by each part alone. -/
theorem and_append_eq_append_iff {m n : Nat} {w : BitVec (m + n)} {a c : BitVec m} {b d : BitVec n} :
    w &&& (a ++ b) = c ++ d ↔ w.extractLsb' n m &&& a = c ∧ w.extractLsb' 0 n &&& b = d := by
  rw [eq_append_iff, BitVec.extractLsb'_and, BitVec.extractLsb'_and, BitVec.extractLsb'_append_eq_left,
    BitVec.extractLsb'_append_eq_right]

/-- Every row of the map asks for its opcode and for zeros below it. -/
theorem and_opcodeMask_iff {w : Word} {op : BitVec 4} {mask : BitVec 28} :
    w &&& (0xF#4 ++ mask) = op ++ 0#28 ↔ opField w = op.toNat ∧ zeroN w &&& mask = 0 := by
  have hop : w.extractLsb' 28 4 &&& 0xF#4 = op ↔ opField w = op.toNat := by
    rw [show 0xF#4 = BitVec.allOnes 4 from rfl, BitVec.and_allOnes, ← BitVec.toNat_inj]
    rfl
  exact and_append_eq_append_iff.trans (and_congr_left' hop)

theorem zeroN_and_initMask_iff {w : Word} : zeroN w &&& 0xFFFFFF0#28 = 0 ↔ zeroI w = 0 := by
  have h : zeroN w &&& (BitVec.allOnes 24 ++ 0#4) = 0#24 ++ 0#4 ↔ _ := and_append_eq_append_iff (m := 24) (n := 4)
  refine h.trans ?_
  rw [BitVec.and_allOnes, BitVec.and_zero, eq_self, and_true, zeroN, BitVec.extractLsb'_extractLsb'_of_le (by decide)]
  rfl

theorem zeroN_and_rdcellMask_iff {w : Word} : zeroN w &&& 0x000FFFF#28 = 0 ↔ zeroX w = 0 := by
  have h : zeroN w &&& (0#12 ++ BitVec.allOnes 16) = 0#12 ++ 0#16 ↔ _ := and_append_eq_append_iff (m := 12) (n := 16)
  refine h.trans ?_
  rw [BitVec.and_allOnes, BitVec.and_zero, eq_self, true_and, zeroN, BitVec.extractLsb'_extractLsb'_of_le (by decide)]
  rfl

theorem zeroN_and_allOnes_iff {w : Word} : zeroN w &&& 0xFFFFFFF#28 = 0 ↔ zeroN w = 0 := by
  rw [show 0xFFFFFFF#28 = BitVec.allOnes 28 from rfl, BitVec.and_allOnes]

theorem initRow_selects_iff {w : Word} : w &&& 0xFFFFFFF0#32 = 0x10000000#32 ↔ opField w = 1 ∧ zeroI w = 0 :=
  (and_opcodeMask_iff (op := 1) (mask := 0xFFFFFF0#28)).trans (and_congr_right' zeroN_and_initMask_iff)

theorem wrpixRow_selects_iff {w : Word} : w &&& 0xF0000000#32 = 0x20000000#32 ↔ opField w = 2 :=
  (and_opcodeMask_iff (op := 2) (mask := 0#28)).trans (and_iff_left BitVec.and_zero)

theorem clearRow_selects_iff {w : Word} : w &&& 0xFFFFFFFF#32 = 0x30000000#32 ↔ opField w = 3 ∧ zeroN w = 0 :=
  (and_opcodeMask_iff (op := 3) (mask := 0xFFFFFFF#28)).trans (and_congr_right' zeroN_and_allOnes_iff)

theorem outputRow_selects_iff {w : Word} : w &&& 0xFFFFFFFF#32 = 0x40000000#32 ↔ opField w = 4 ∧ zeroN w = 0 :=
  (and_opcodeMask_iff (op := 4) (mask := 0xFFFFFFF#28)).trans (and_congr_right' zeroN_and_allOnes_iff)

theorem geomRow_selects_iff {w : Word} : w &&& 0xFFFFFFFF#32 = 0x50000000#32 ↔ opField w = 5 ∧ zeroN w = 0 :=
  (and_opcodeMask_iff (op := 5) (mask := 0xFFFFFFF#28)).trans (and_congr_right' zeroN_and_allOnes_iff)

theorem rdcellRow_selects_iff {w : Word} : w &&& 0xF000FFFF#32 = 0x60000000#32 ↔ opField w = 6 ∧ zeroX w = 0 :=
  (and_opcodeMask_iff (op := 6) (mask := 0x000FFFF#28)).trans (and_congr_right' zeroN_and_rdcellMask_iff)

/-- The row of the command's mnemonic selects its word (R77). -/
theorem exists_row_of_decode {w : Word} {i : Instr} (h : decode w = .command i) :
    ∃ r ∈ opcodeMap, r.mnemonic = i.mnemonic ∧ w &&& r.mask = r.pattern := by
  have hfields := spelledBy_of_decode h
  cases i with
  | init bb =>
    obtain ⟨hop, hzero, _⟩ := hfields
    exact ⟨opcodeMap[0], List.getElem_mem _, rfl, initRow_selects_iff.mpr ⟨hop, hzero⟩⟩
  | wrpix y x color =>
    obtain ⟨hop, _⟩ := hfields
    exact ⟨opcodeMap[1], List.getElem_mem _, rfl, wrpixRow_selects_iff.mpr hop⟩
  | clear => exact ⟨opcodeMap[2], List.getElem_mem _, rfl, clearRow_selects_iff.mpr hfields⟩
  | output => exact ⟨opcodeMap[3], List.getElem_mem _, rfl, outputRow_selects_iff.mpr hfields⟩
  | geom => exact ⟨opcodeMap[4], List.getElem_mem _, rfl, geomRow_selects_iff.mpr hfields⟩
  | rdcell y x =>
    obtain ⟨hop, hzero, _⟩ := hfields
    exact ⟨opcodeMap[5], List.getElem_mem _, rfl, rdcellRow_selects_iff.mpr ⟨hop, hzero⟩⟩

/-- A word that a row selects decodes to the row's command (R77). -/
theorem decode_of_row {r : OpcodeRow} (hr : r ∈ opcodeMap) {w : Word} (h : w &&& r.mask = r.pattern) :
    ∃ i, decode w = .command i ∧ i.mnemonic = r.mnemonic := by
  simp only [opcodeMap, List.mem_cons, List.not_mem_nil, or_false] at hr
  obtain rfl | rfl | rfl | rfl | rfl | rfl := hr
  · obtain ⟨hop, hzero⟩ := initRow_selects_iff.mp h
    exact ⟨.init (bbField w), decode_of_spelledBy ⟨hop, hzero, rfl⟩, rfl⟩
  · have hop := wrpixRow_selects_iff.mp h
    exact ⟨.wrpix (yField w) (xField w) (colorField w), decode_of_spelledBy ⟨hop, rfl, rfl, rfl⟩, rfl⟩
  · exact ⟨.clear, decode_of_spelledBy (clearRow_selects_iff.mp h), rfl⟩
  · exact ⟨.output, decode_of_spelledBy (outputRow_selects_iff.mp h), rfl⟩
  · exact ⟨.geom, decode_of_spelledBy (geomRow_selects_iff.mp h), rfl⟩
  · obtain ⟨hop, hzero⟩ := rdcellRow_selects_iff.mp h
    exact ⟨.rdcell (yField w) (xField w), decode_of_spelledBy ⟨hop, hzero, rfl, rfl⟩, rfl⟩

/-- No two rows of the map bear one mnemonic. -/
theorem opcodeMap_mnemonic_injOn : ∀ r ∈ opcodeMap, ∀ r' ∈ opcodeMap, r.mnemonic = r'.mnemonic → r = r' := by
  decide

theorem row_selects_iff {r : OpcodeRow} (hr : r ∈ opcodeMap) {w : Word} :
    w &&& r.mask = r.pattern ↔ ∃ i, decode w = .command i ∧ i.mnemonic = r.mnemonic := by
  refine ⟨decode_of_row hr, fun ⟨i, hd, hi⟩ => ?_⟩
  obtain ⟨r', hr', hi', hsel⟩ := exists_row_of_decode hd
  cases opcodeMap_mnemonic_injOn r' hr' r hr (hi'.trans hi)
  exact hsel

/-- One word decodes to one command, so two rows that select it bear one mnemonic. -/
theorem rows_do_not_overlap {r r' : OpcodeRow} (hr : r ∈ opcodeMap) (hr' : r' ∈ opcodeMap) {w : Word}
    (h : w &&& r.mask = r.pattern) (h' : w &&& r'.mask = r'.pattern) : r = r' := by
  obtain ⟨i, hd, hi⟩ := decode_of_row hr h
  obtain ⟨i', hd', hi'⟩ := decode_of_row hr' h'
  cases hd.symm.trans hd'
  exact opcodeMap_mnemonic_injOn r hr r' hr' (hi.symm.trans hi')

theorem no_row_selects_iff {w : Word} :
    (∀ r ∈ opcodeMap, w &&& r.mask ≠ r.pattern) ↔ ∃ why, decode w = .illegal why := by
  cases hd : decode w with
  | command i =>
    obtain ⟨r, hr, _, hsel⟩ := exists_row_of_decode hd
    simpa using ⟨r, hr, hsel⟩
  | illegal why =>
    refine iff_of_true (fun r hr h => ?_) ⟨why, rfl⟩
    obtain ⟨i, hd', _⟩ := decode_of_row hr h
    cases hd.symm.trans hd'

/-- Settles O3: a row selects the words of its command (`row_selects_iff`), which makes the rows disjoint
(`rows_do_not_overlap`) and leaves the illegal words to no row (`no_row_selects_iff`). -/
theorem opcodeMapSelectsTheDecoding : Obligations.OpcodeMapSelectsTheDecoding :=
  ⟨rfl, fun _ hr _ => row_selects_iff hr, fun _ hr _ hr' _ => rows_do_not_overlap hr hr', fun _ => no_row_selects_iff⟩

end Sys2Proof
end

section
/-! The acceptance of an illegal word (R78, R174). -/

namespace Sys2Proof.Machine

theorem step_of_illegal {s : State} {why : Illegal} (hrst : s.rst = false) (hseq : s.seq = .idle)
    (hvalid : s.cmdValid = true) (hd : decode s.cmd = .illegal why) : step s = acceptIllegal s.driveNext := by
  obtain ⟨h, _⟩ | ⟨_, _, h, _⟩ | ⟨_, _, _, _, h, _⟩ | ⟨_, _, _, _, _, he⟩ | ⟨_, _, h, _⟩ := step_cases s
  · simp [hrst] at h
  · simp [hseq] at h
  · simp [hd] at h
  · exact he
  · simp [hvalid] at h

theorem acceptIllegal_of_notFaulted {s : State} (hf : s.faulted = false) :
    acceptIllegal s = .next (s.raiseFatal .illegalCommand) := by
  simp [acceptIllegal, hf]

/-- Settles O4: the words of each clause of R78 (`decode_eq_reservedOpcode_iff`, `decode_eq_nonzeroField_iff`), and the
acceptance of one as a step (`step_of_illegal`, `acceptIllegal_of_notFaulted`). -/
theorem illegalWordsFault : Obligations.IllegalWordsFault := by
  refine ⟨fun w => ?_, fun w => decode_eq_nonzeroField_iff, by decide, by decide, ?_⟩
  · have hlt := opField_lt w
    rw [decode_eq_reservedOpcode_iff]
    omega
  · intro s why hrst hseq hvalid hf hd
    rw [step_of_illegal hrst hseq hvalid hd]
    exact acceptIllegal_of_notFaulted ((driveNext_faulted s).trans hf)

end Sys2Proof.Machine
end

section
/-! What a command answers in a block that is not FAULTED (R103 to R107): success is `Succeeds`, and the range checks of
INIT, WRPIX and RDCELL are conditions on their operands. -/

namespace Sys2Proof.Machine

/-- R103's range check. -/
theorem outOfDepth_eq_false_iff {bb : BitVec 4} : outOfDepth bb = false ↔ 1 ≤ bb.toNat ∧ bb.toNat ≤ 8 := by
  simp [outOfDepth, Nat.one_le_iff_ne_zero]

theorem outOfDepth_eq_true_iff {bb : BitVec 4} : outOfDepth bb = true ↔ bb.toNat = 0 ∨ 9 ≤ bb.toNat := by
  simp [outOfDepth, Nat.lt_iff_add_one_le]

/-- The range check of R104 and R106. -/
theorem outOfRows_eq_false_iff {v : Variant} {y : BitVec 6} : outOfRows v y = false ↔ y.toNat < 2 * v.rows :=
  decide_eq_false_iff_not.trans Nat.not_le

theorem outOfRows_eq_true_iff {v : Variant} {y : BitVec 6} : outOfRows v y = true ↔ 2 * v.rows ≤ y.toNat :=
  decide_eq_true_iff

/-- The converse of `exec_cases`' last case: a command whose checks pass answers the state `Succeeds` describes. -/
theorem exec_of_succeeds {i : Instr} {s t : State} (hf : s.faulted = false) (h : Succeeds s t i) :
    exec i s = .next t := by
  cases i with
  | init bb =>
    obtain ⟨hbb, rfl⟩ := h
    rw [exec, execInit, checked_of_ready hf (by simp), if_neg (Bool.eq_false_iff.mp hbb)]
  | wrpix y x color =>
    obtain ⟨hc, hy, rfl⟩ := h
    rw [exec, execWrpix, checked_of_ready hf fun _ => hc, if_neg (Bool.eq_false_iff.mp hy)]
  | clear =>
    obtain ⟨hc, rfl⟩ := h
    rw [exec, execClear, checked_of_ready hf fun _ => hc]
  | output =>
    obtain ⟨hc, rfl⟩ := h
    rw [exec, execOutput, checked_of_ready hf fun _ => hc]
  | geom =>
    cases h
    rw [exec, execGeom, checked_of_ready hf (by simp)]
  | rdcell y x =>
    obtain ⟨hc, hy, rfl⟩ := h
    rw [exec, execRdcell, checked_of_ready hf fun _ => hc, if_neg (Bool.eq_false_iff.mp hy)]

/-- Every command but INIT and GEOM is fatal before the first INIT. -/
theorem exec_of_notConfigured {i : Instr} {s : State} (hf : s.faulted = false) (hc : s.configured = false)
    (hinit : ∀ bb, i ≠ .init bb) (hgeom : i ≠ .geom) : exec i s = .next (s.raiseFatal .notConfigured) := by
  cases i with
  | init bb => exact absurd rfl (hinit bb)
  | wrpix y x color => rw [exec, execWrpix, checked_of_notConfigured hf hc]
  | clear => rw [exec, execClear, checked_of_notConfigured hf hc]
  | output => rw [exec, execOutput, checked_of_notConfigured hf hc]
  | geom => exact absurd rfl hgeom
  | rdcell y x => rw [exec, execRdcell, checked_of_notConfigured hf hc]

theorem exec_init_of_outOfDepth {s : State} {bb : BitVec 4} (hf : s.faulted = false) (hbb : outOfDepth bb = true) :
    exec (.init bb) s = .next (s.raiseFatal .configRange) := by
  rw [exec, execInit, checked_of_ready hf (by simp), if_pos hbb]

theorem exec_wrpix_of_outOfRows {s : State} {y x : BitVec 6} {color : BitVec 16} (hf : s.faulted = false)
    (hc : s.configured = true) (hy : outOfRows s.cfg.variant y = true) :
    exec (.wrpix y x color) s = .next (s.raiseFatal .outOfBounds) := by
  rw [exec, execWrpix, checked_of_ready hf fun _ => hc, if_pos hy]

theorem exec_rdcell_of_outOfRows {s : State} {y x : BitVec 6} (hf : s.faulted = false)
    (hc : s.configured = true) (hy : outOfRows s.cfg.variant y = true) :
    exec (.rdcell y x) s = .next (s.raiseFatal .outOfBounds) := by
  rw [exec, execRdcell, checked_of_ready hf fun _ => hc, if_pos hy]

theorem execAll_cons {i : Instr} {rest : List Instr} {s t : State} (h : exec i s = .next t) :
    execAll (i :: rest) s = execAll rest t := by
  rw [execAll, h]

/-- Settles O11: a `bb` in range passes INIT's check and any other fails it (`outOfDepth_eq_false_iff`,
`outOfDepth_eq_true_iff`); the example's STATUS is that of the state `exec_of_succeeds` gives. -/
theorem initConfiguresAndZeroes : Obligations.InitConfiguresAndZeroes := by
  refine ⟨fun s bb hf h1 h8 => ?_, fun s bb hf hbb => ?_, fun s t hf hseq hvariant hpolicy h => ?_⟩
  · exact ⟨_, exec_of_succeeds hf ⟨outOfDepth_eq_false_iff.mpr ⟨h1, h8⟩, rfl⟩, rfl, Memory.read_zeroed⟩
  · exact exec_init_of_outOfDepth hf (outOfDepth_eq_true_iff.mpr hbb)
  · cases (exec_of_succeeds (i := .init 4) hf ⟨rfl, rfl⟩).symm.trans h
    refine ⟨rfl, rfl, ?_⟩
    simp [statusWord, State.bbStatus, State.busy, hf, hseq, hvariant, hpolicy, Seq.busy, Variant.bit, FailPolicy.bit,
      Err.code]

/-- Settles O15: GEOM has no check but FAULTED, and R7's two values of R give the two answers. -/
theorem geomReportsTheGeometry : Obligations.GeomReportsTheGeometry := by
  exact fun s hf => ⟨exec_of_succeeds (i := .geom) hf rfl, fun hv => hv ▸ rfl, fun hv => hv ▸ rfl⟩

end Sys2Proof.Machine
end

section
/-! One pixel's triple in FB (R51, R52, R55): where its channels stand, and reads after it is written. -/

namespace Sys2Proof.Machine

/-- R51's first channel, chosen by the panel row. -/
@[simp] theorem firstChannel_placeOf (v : Variant) (x y : Nat) :
    firstChannel (placeOf v x y).bottom = if v.rows ≤ y then 3 else 0 := by
  simp [firstChannel, placeOf]

/-- A pixel's triple is the three channels R51 names. -/
theorem Memory.readTriple_placeOf (m : Memory) (v : Variant) (x y : Nat) :
    m.readTriple (placeOf v x y) =
      { red := m.read (fbIndex (y % v.rows) x (if v.rows ≤ y then 3 else 0))
        green := m.read (fbIndex (y % v.rows) x (if v.rows ≤ y then 4 else 1))
        blue := m.read (fbIndex (y % v.rows) x (if v.rows ≤ y then 5 else 2)) } := by
  simp only [Memory.readTriple, firstChannel_placeOf, ite_add]
  rfl

@[simp] theorem Memory.readTriple_zeroed (p : Place) :
    Memory.zeroed.readTriple p = { red := 0, green := 0, blue := 0 } := rfl

/-- A written triple reads back. -/
theorem Memory.readTriple_writeTriple {m : Memory} (h : m.wf = true) (p : Place) (t : Triple) :
    (m.writeTriple p t).readTriple p = t := by
  simp [Memory.readTriple, Memory.read_writeTriple h, fbIndex]

/-- A written triple changes no other index. -/
theorem Memory.read_writeTriple_of_ne {m : Memory} (h : m.wf = true) {p : Place} {t : Triple} {a : Nat}
    (ha : ∀ j, j < 3 → a ≠ fbIndex p.h p.c (firstChannel p.bottom + j)) : (m.writeTriple p t).read a = m.read a := by
  rw [Memory.read_writeTriple h, if_neg (ha 2 (by decide)), if_neg (ha 1 (by decide))]
  exact if_neg (ha 0 (by decide))

/-- Settles O12: the written triple reads back (`Memory.readTriple_writeTriple`) at R51's channels
(`Memory.readTriple_placeOf`), and no other index changes (`Memory.read_writeTriple_of_ne`). -/
theorem wrpixStoresOneTriple : Obligations.WrpixStoresOneTriple := by
  refine ⟨fun s y x color hf => ⟨fun hc hy hwf => ?_, fun hc hy => ?_, fun hc => ?_⟩, fun _ _ => rfl,
    by decide, by decide, by decide, by decide⟩
  · have hread := Memory.readTriple_writeTriple hwf (placeOf s.cfg.variant x.toNat y.toNat) (ingest s.cfg color)
    rw [Memory.readTriple_placeOf] at hread
    refine ⟨_, exec_of_succeeds hf ⟨hc, outOfRows_eq_false_iff.mpr hy, rfl⟩, rfl, ?_, ?_, ?_, fun a ha => ?_⟩
    · exact congrArg Triple.red hread
    · exact congrArg Triple.green hread
    · exact congrArg Triple.blue hread
    · exact Memory.read_writeTriple_of_ne hwf fun j hj => by
        rw [firstChannel_placeOf]
        exact ha j hj
  · exact exec_wrpix_of_outOfRows hf hc (outOfRows_eq_true_iff.mpr hy)
  · exact exec_of_notConfigured hf hc nofun nofun

/-- Settles O13: every channel of FB reads 0, so every triple does (`Memory.readTriple_zeroed`). -/
theorem clearZeroesEveryChannel : Obligations.ClearZeroesEveryChannel := by
  refine fun s hf => ⟨fun hc => ⟨_, exec_of_succeeds hf ⟨hc, rfl⟩, rfl, Memory.read_zeroed, fun y x hy => ?_⟩,
    fun hc => ?_⟩
  · refine exec_of_succeeds (i := .rdcell y x) hf ⟨hc, outOfRows_eq_false_iff.mpr hy, ?_⟩
    simp only [Memory.readTriple_zeroed]
    rfl
  · exact exec_of_notConfigured hf hc nofun nofun

/-- R78 clause 2 for format X: the bits below the operands must be 0. -/
theorem decode_rdcell_of_low_ne_zero {y x : BitVec 6} {low : BitVec 16} (hlow : low ≠ 0) :
    decode (0x6#4 ++ y ++ x ++ low) = .illegal .nonzeroField := by
  have hop : opField (0x6#4 ++ y ++ x ++ low) = 6 := by
    rw [opField, BitVec.extractLsb'_append_eq_of_le (by decide), BitVec.extractLsb'_append_eq_of_le (by decide),
      BitVec.extractLsb'_append_eq_left]
    rfl
  have hzero : zeroX (0x6#4 ++ y ++ x ++ low) = low := BitVec.extractLsb'_append_eq_right
  exact decode_eq_nonzeroField_iff.mpr (.inr (.inr ⟨hop, hzero.trans_ne hlow⟩))

/-- RDCELL of the pixel WRPIX just wrote answers the ingested colour (R97). -/
theorem exec_rdcell_after_wrpix {s : State} {y x : BitVec 6} {color : BitVec 16} (hf : s.faulted = false)
    (hc : s.configured = true) (hwf : s.fb.wf = true) (hy : y.toNat < 2 * s.cfg.variant.rows) :
    ∃ t, exec (.wrpix y x color) s = .next t ∧ exec (.rdcell y x) t = .next { t with
      resp := tripleWord (ingest s.cfg color).red (ingest s.cfg color).green (ingest s.cfg color).blue } := by
  have hrow := outOfRows_eq_false_iff.mpr hy
  refine ⟨_, exec_of_succeeds hf ⟨hc, hrow, rfl⟩, exec_of_succeeds (i := .rdcell y x) hf ⟨hc, hrow, ?_⟩⟩
  simp only [Memory.readTriple_writeTriple hwf]

/-- Settles O14: RESP is the pixel's triple, at R51's channels (`Memory.readTriple_placeOf`); the example is a read
after a write of the same pixel (`exec_rdcell_after_wrpix`). -/
theorem rdcellReadsTheTriple : Obligations.RdcellReadsTheTriple := by
  refine ⟨fun s y x hf => ⟨fun hc hy => ?_, fun hc hy => ?_, fun hc => ?_, fun low => decode_rdcell_of_low_ne_zero⟩,
    fun s hcfg hf hc hwf => ?_⟩
  · refine exec_of_succeeds hf ⟨hc, outOfRows_eq_false_iff.mpr hy, ?_⟩
    rw [Memory.readTriple_placeOf]
    rfl
  · exact exec_rdcell_of_outOfRows hf hc (outOfRows_eq_true_iff.mpr hy)
  · exact exec_of_notConfigured hf hc nofun nofun
  · have hy : (20 : BitVec 6).toNat < 2 * s.cfg.variant.rows := by
      rw [hcfg]
      decide
    obtain ⟨t, hwrite, hread⟩ := exec_rdcell_after_wrpix (x := 5) (color := 0xF800) hf hc hwf hy
    rw [execAll_cons hwrite, execAll_cons hread]
    refine ⟨_, rfl, ?_⟩
    simp only [hcfg]
    decide

end Sys2Proof.Machine
end

section
/-! Bit replication (R92, R93): the shifted copies do not overlap and stay inside 8 bits. -/

namespace Sys2Proof.Machine

/-- An `n`-bit value at the top of 8 bits, with its high bits repeated below: no bit is shifted out. -/
theorem replicate_toNat {n k : Nat} (r : Nat) (v : BitVec n) (hn : n + k = 8) :
    ((v.setWidth 8 <<< k) ||| (v.setWidth 8 >>> r)).toNat = ((v.toNat <<< k) ||| (v.toNat >>> r)) := by
  have hwidth : v.toNat % 2 ^ 8 = v.toNat :=
    Nat.mod_eq_of_lt (v.isLt.trans_le (Nat.pow_le_pow_right (by decide) (by omega)))
  have hshift : v.toNat <<< k < 2 ^ 8 := by
    rw [Nat.shiftLeft_eq, ← hn, pow_add]
    exact Nat.mul_lt_mul_of_pos_right v.isLt (by positivity)
  rw [BitVec.toNat_or, BitVec.toNat_shiftLeft, BitVec.toNat_ushiftRight, BitVec.toNat_setWidth, hwidth,
    Nat.mod_eq_of_lt hshift]

/-- When `v` has at most `k + r` bits, its two shifted copies have no bit in common. -/
theorem shiftLeft_or_shiftRight_eq_add {k r v : Nat} (hv : v < 2 ^ (k + r)) :
    (v <<< k) ||| (v >>> r) = 2 ^ k * v + v / 2 ^ r := by
  have hlow : v >>> r < 2 ^ k := by
    rw [Nat.shiftRight_eq_div_pow, Nat.div_lt_iff_lt_mul (by positivity), ← pow_add]
    exact hv
  rw [← Nat.shiftLeft_add_eq_or_of_lt hlow, Nat.shiftRight_eq_div_pow, Nat.shiftLeft_eq, Nat.mul_comm]

/-- Settles O20: each expansion is an OR of two shifted copies (`replicate_toNat`) that do not overlap, so their sum
(`shiftLeft_or_shiftRight_eq_add`). -/
theorem replicateExpands : Obligations.ReplicateExpands := by
  refine ⟨fun v => ?_, fun v => ?_⟩
  · have hor : (e5 .replicate v).toNat = _ := replicate_toNat (k := 3) 2 v rfl
    exact ⟨hor, hor.trans (shiftLeft_or_shiftRight_eq_add v.isLt)⟩
  · have hor : (e6 .replicate v).toNat = _ := replicate_toNat (k := 2) 4 v rfl
    exact ⟨hor, hor.trans (shiftLeft_or_shiftRight_eq_add v.isLt)⟩

end Sys2Proof.Machine
end

section
/-! The trace read by its indices (R132, R148): row `r` of sub-frame `i` begins at `(i*R + r)*(519 + NADDR)`, its column
`c` at `8*c` in the row, its tail at 512. -/

namespace Sys2Proof.Machine

/-- `flatMap_range_getElem?` at an index split into a piece and a place in it. -/
theorem flatMap_range_getElem?_mul_add {α : Type} {len : Nat} (f : Nat → List α) (hf : ∀ i, (f i).length = len)
    {n i m : Nat} (hi : i < n) (hm : m < len) : ((List.range n).flatMap f)[i * len + m]? = (f i)[m]? := by
  have hpos : 0 < len := Nat.zero_lt_of_lt hm
  have hdiv : (i * len + m) / len = i := by
    rw [Nat.mul_comm, Nat.mul_add_div hpos, Nat.div_eq_of_lt hm, Nat.add_zero]
  have hmod : (i * len + m) % len = m := by
    rw [Nat.mul_comm, Nat.mul_add_mod, Nat.mod_eq_of_lt hm]
  rw [flatMap_range_getElem? f hf hpos, hdiv, hmod, if_pos hi]

/-- Row `r` of sub-frame `i` is row `i*R + r` of the trace. -/
theorem scanTrace_getElem?_row (s : State) {i r m : Nat} (hi : i < s.countReg.toNat) (hr : r < s.cfg.variant.rows)
    (hm : m < rowLength s.cfg.variant) :
    (scanTrace s)[(i * s.cfg.variant.rows + r) * rowLength s.cfg.variant + m]? =
      (rowShift s (threshold s.stepReg i) r ++ rowTail s.cfg r)[m]? := by
  have hsub : r * rowLength s.cfg.variant + m < s.cfg.variant.rows * rowLength s.cfg.variant :=
    Nat.mul_comm r _ ▸ Nat.mul_add_lt_mul_of_lt_of_lt hr hm
  have hall := Nat.mul_comm i _ ▸ Nat.mul_add_lt_mul_of_lt_of_lt hi hsub
  rw [Nat.add_mul, Nat.mul_assoc, Nat.add_assoc, scanTrace,
    List.getElem?_append_left (by rwa [flatMap_range_length _ (subFrame_length s)]),
    flatMap_range_getElem?_mul_add _ (subFrame_length s) hi hsub]
  exact flatMap_range_getElem?_mul_add _ (row_length s _) hr hm

theorem scanTrace_getElem?_rowShift (s : State) {i r m : Nat} (hi : i < s.countReg.toNat)
    (hr : r < s.cfg.variant.rows) (hm : m < 512) :
    (scanTrace s)[(i * s.cfg.variant.rows + r) * rowLength s.cfg.variant + m]? =
      (rowShift s (threshold s.stepReg i) r)[m]? := by
  rw [scanTrace_getElem?_row s hi hr (by rw [rowLength_eq]; omega), List.getElem?_append_left (by simpa using hm)]

theorem scanTrace_getElem?_column (s : State) {i r c m : Nat} (hi : i < s.countReg.toNat)
    (hr : r < s.cfg.variant.rows) (hc : c < 64) (hm : m < 8) :
    (scanTrace s)[(i * s.cfg.variant.rows + r) * rowLength s.cfg.variant + 8 * c + m]? =
      (columnEvents s (threshold s.stepReg i) r c)[m]? := by
  rw [Nat.add_assoc, scanTrace_getElem?_rowShift s hi hr (by omega), Nat.mul_comm 8 c]
  exact flatMap_range_getElem?_mul_add _ (columnEvents_length s _ r) hc hm

theorem scanTrace_getElem?_rowTail (s : State) {i r m : Nat} (hi : i < s.countReg.toNat)
    (hr : r < s.cfg.variant.rows) (hm : m < 7 + s.cfg.variant.naddr) :
    (scanTrace s)[(i * s.cfg.variant.rows + r) * rowLength s.cfg.variant + 512 + m]? = (rowTail s.cfg r)[m]? := by
  rw [Nat.add_assoc, scanTrace_getElem?_row s hi hr (by rw [rowLength_eq]; omega),
    List.getElem?_append_right (by simp)]
  simp

/-- An event of the trace is one of a row, or the final blank. -/
theorem mem_scanTrace_iff {s : State} {e : Event} :
    e ∈ scanTrace s ↔
      (∃ i < s.countReg.toNat, ∃ r < s.cfg.variant.rows,
        e ∈ rowShift s (threshold s.stepReg i) r ∨ e ∈ rowTail s.cfg r) ∨
      e = .drive .oe true := by
  simp [scanTrace, subFrame]

/-- The length of the trace (R148). -/
theorem scanTrace_length (s : State) : (scanTrace s).length = traceLength s := by
  rw [scanTrace, List.length_append, flatMap_range_length _ (subFrame_length s), traceLength, rowCount, Nat.mul_assoc]
  rfl

end Sys2Proof.Machine
end

section
/-! A column's events (R131, R133). -/

namespace Sys2Proof.Machine

theorem lvl_eq_true_iff {v : Byte} {t : Nat} : lvl v t = true ↔ t ≤ v.toNat := decide_eq_true_iff

/-- STEP is a byte, so the first sub-frame's threshold does not saturate. -/
theorem threshold_zero (step : Byte) : threshold step 0 = step.toNat := by
  have hle : step.toNat ≤ 255 := Nat.le_of_lt_succ step.isLt
  simp [threshold, sat255, hle]

theorem colorLine_number {ch : Nat} (h : ch < 6) : (colorLine ch).number = ch := by
  interval_cases ch <;> rfl

theorem columnEvents_getElem?_color (s : State) (t r c : Nat) {ch : Nat} (h : ch < 6) :
    (columnEvents s t r c)[ch]? = some (.drive (colorLine ch) (lvl (s.channel r c ch) t)) := by
  interval_cases ch <;> rfl

theorem line_of_drive_mem_columnEvents {s : State} {t r c : Nat} {l : Line} {v : Level}
    (h : .drive l v ∈ columnEvents s t r c) : l ∈ [.r1, .g1, .b1, .r2, .g2, .b2, .clk] := by
  simp only [columnEvents, List.mem_cons, Event.drive.injEq, List.not_mem_nil, or_false] at h
  simp only [List.mem_cons, List.not_mem_nil, or_false]
  tauto

/-- A row's columns drive colour lines and CLK only. -/
theorem line_of_drive_mem_rowShift {s : State} {t r : Nat} {l : Line} {v : Level} (h : .drive l v ∈ rowShift s t r) :
    l ∈ [.r1, .g1, .b1, .r2, .g2, .b2, .clk] := by
  obtain ⟨c, -, hc⟩ := List.mem_flatMap.mp h
  exact line_of_drive_mem_columnEvents hc

/-- Settles O42: a column's events stand at `scanTrace_getElem?_column`; the first six are the comparisons of the six
channels (`columnEvents_getElem?_color`). -/
theorem columnComparesAndPulses : Obligations.ColumnComparesAndPulses := by
  intro s i r c hi hr hc
  refine ⟨fun ch hch => ⟨colorLine ch, _, ?_, colorLine_number hch, lvl_eq_true_iff⟩, ?_, ?_⟩
  · exact (scanTrace_getElem?_column s hi hr hc (by omega)).trans (columnEvents_getElem?_color s _ r c hch)
  · exact scanTrace_getElem?_column s hi hr hc (by decide)
  · exact scanTrace_getElem?_column s hi hr hc (by decide)

end Sys2Proof.Machine
end

section
/-! The row tail and its address drives (R134, R135, R142). -/

namespace Sys2Proof.Machine

/-- The address line of a bit of the row's number, in R135's order. -/
def addressLine : Nat → Line
  | 0 => .a
  | 1 => .b
  | 2 => .c
  | 3 => .d
  | _ => .f

theorem addressLine_number {j : Nat} (h : j < 5) : (addressLine j).number = 6 + j := by
  interval_cases j <;> rfl

theorem naddr_le (v : Variant) : v.naddr ≤ 5 := by
  cases v <;> decide

theorem rows_eq_two_pow_naddr (v : Variant) : v.rows = 2 ^ v.naddr := by
  cases v <;> rfl

/-- `Address(r)`: line `j` carries bit `j` of `r`. -/
theorem addressEvents_getElem? (v : Variant) (r : Nat) {j : Nat} (h : j < v.naddr) :
    (addressEvents v r)[j]? = some (.drive (addressLine j) (r.testBit j)) := by
  cases v with
  | standard =>
    have hj : j < 4 := h
    interval_cases j <;> rfl
  | double =>
    have hj : j < 5 := h
    interval_cases j <;> rfl

theorem rowTail_getElem?_address (cfg : Config) (r : Nat) {j : Nat} (h : j < cfg.variant.naddr) :
    (rowTail cfg r)[5 + j]? = (addressEvents cfg.variant r)[j]? := by
  rw [rowTail, List.getElem?_append_left (by simp; omega), List.getElem?_append_right (by simp)]
  simp

/-- After the address drives: the last wait and the unblank. -/
theorem rowTail_getElem?_end (cfg : Config) (r m : Nat) :
    (rowTail cfg r)[5 + cfg.variant.naddr + m]? = [Event.wait cfg.delayUs, .drive .oe false][m]? := by
  rw [rowTail, List.getElem?_append_right (by simp; omega)]
  congr 1
  simp
  omega

theorem rowTail_getElem?_unblank (cfg : Config) (r : Nat) :
    (rowTail cfg r)[6 + cfg.variant.naddr]? = some (.drive .oe false) := by
  rw [Nat.add_right_comm 5 1]
  exact rowTail_getElem?_end cfg r 1

/-- On 64x32 the row tail has no F drive. -/
theorem drive_f_not_mem_rowTail {cfg : Config} (h : cfg.variant = .standard) (r : Nat) (v : Level) :
    .drive .f v ∉ rowTail cfg r := by
  simp [rowTail, addressEvents, h]

/-- Settles O43: the tail's events stand at `scanTrace_getElem?_rowTail`. -/
theorem rowTailLatchesAndAddresses : Obligations.RowTailLatchesAndAddresses := by
  intro s i r hi hr
  have htail {m : Nat} (hm : m < 7 + s.cfg.variant.naddr) := scanTrace_getElem?_rowTail s hi hr hm
  refine ⟨htail (m := 0) (by omega), htail (m := 1) (by omega), htail (m := 2) (by omega), htail (m := 3) (by omega),
    htail (m := 4) (by omega), fun j hj => ?_, ?_, ?_⟩
  · rw [Nat.add_assoc _ 5 j]
    exact (htail (by omega)).trans (rowTail_getElem?_address s.cfg r hj)
  · rw [Nat.add_assoc _ 5]
    exact (htail (by omega)).trans (rowTail_getElem?_end s.cfg r 0)
  · rw [Nat.add_assoc _ 6]
    exact (htail (by omega)).trans (rowTail_getElem?_unblank s.cfg r)

/-- Settles O44: each drive is that of one bit (`addressEvents_getElem?`); `testBit` is the rule's `r div 2^j mod 2`. -/
theorem addressLinesCarryTheRow : Obligations.AddressLinesCarryTheRow := by
  refine ⟨fun v r _ => ⟨addressEvents_length v r, rows_eq_two_pow_naddr v, fun j hj => ⟨addressLine j, ?_, ?_⟩⟩,
    by decide⟩
  · exact addressLine_number (hj.trans_le (naddr_le v))
  · rw [addressEvents_getElem? v r hj, Nat.testBit_eq_decide_div_mod_eq]

/-- Settles O45: on 64x32 neither part of a row drives F (`line_of_drive_mem_rowShift`, `drive_f_not_mem_rowTail`); on
64x64 the first row tail does, at its fifth address drive. -/
theorem fLineOnlyInTheDoubleVariant : Obligations.FLineOnlyInTheDoubleVariant := by
  refine fun s => ⟨fun hv e he v hf => ?_, fun hv hcount => ⟨Nat.testBit 0 4, ?_⟩⟩
  · subst hf
    obtain ⟨i, -, r, -, hrow | hrow⟩ | hblank := mem_scanTrace_iff.mp he
    · exact absurd (line_of_drive_mem_rowShift hrow) (by decide)
    · exact drive_f_not_mem_rowTail hv r v hrow
    · cases hblank
  · have h4 : 4 < s.cfg.variant.naddr := by
      rw [hv]
      decide
    have hdrive : Event.drive .f (Nat.testBit 0 4) ∈ rowTail s.cfg 0 :=
      List.mem_of_getElem? ((rowTail_getElem?_address s.cfg 0 h4).trans (addressEvents_getElem? _ 0 h4))
    exact mem_scanTrace_iff.mpr (.inl ⟨0, hcount, 0, rows_pos _, .inr hdrive⟩)

end Sys2Proof.Machine
end

section
/-! The two ends of the trace (R140, R143). -/

namespace Sys2Proof.Machine

/-- The index of the last row's last event, from the number of rows. -/
theorem traceLength_sub_two {s : State} {i : Nat} (hi : s.countReg.toNat = i + 1) :
    traceLength s - 2 = (i * s.cfg.variant.rows + (s.cfg.variant.rows - 1)) * rowLength s.cfg.variant + 512 +
      (6 + s.cfg.variant.naddr) := by
  have hrows : rowCount s = i * s.cfg.variant.rows + (s.cfg.variant.rows - 1) + 1 := by
    rw [rowCount, hi, Nat.succ_mul, Nat.add_assoc, Nat.sub_add_cancel (rows_pos _)]
  have hlen := rowLength_eq s.cfg.variant
  rw [traceLength, hrows, Nat.succ_mul]
  omega

/-- Settles O48: the final blank closes the list; the event before it is the last of the last row tail
(`traceLength_sub_two`), and the first 512 events are the first row's columns. -/
theorem traceBeginsAndEnds : Obligations.TraceBeginsAndEnds := by
  refine fun s => ⟨by simp [scanTrace], fun hcount => ⟨?_, ?_, fun k l v hk h => ?_⟩⟩
  · obtain ⟨i, hi⟩ := Nat.exists_eq_succ_of_ne_zero hcount.ne'
    have hrow : s.cfg.variant.rows - 1 < s.cfg.variant.rows := Nat.sub_lt (rows_pos _) (by decide)
    rw [scanTrace_length, traceLength_sub_two hi, scanTrace_getElem?_rowTail s (by omega) hrow (by omega)]
    exact rowTail_getElem?_unblank s.cfg _
  · have hfirst := scanTrace_getElem?_column s (c := 0) (m := 0) hcount (rows_pos _) (by decide) (by decide)
    simpa [columnEvents, threshold_zero, lvl] using hfirst
  · have hshift := scanTrace_getElem?_rowShift s hcount (rows_pos _) hk
    simp only [Nat.zero_mul, Nat.zero_add] at hshift
    exact line_of_drive_mem_rowShift (List.mem_of_getElem? (hshift.symm.trans h))

end Sys2Proof.Machine
end

section
/-! The acceptance of a command word (R172, R175): a FAULTED block discards it, any other runs its checks in order. -/

namespace Sys2Proof.Machine

theorem step_of_running {s : State} {k : Nat} (hrst : s.rst = false) (hseq : s.seq = .running k) :
    step s = seqStep k s.hold := by
  simp [step, hrst, hseq]

theorem step_of_command {s : State} {i : Instr} (hrst : s.rst = false) (hseq : s.seq = .idle)
    (hvalid : s.cmdValid = true) (hd : decode s.cmd = .command i) : step s = exec i s.driveNext := by
  obtain ⟨h, _⟩ | ⟨_, _, h, _⟩ | ⟨_, _, _, j, hj, he⟩ | ⟨_, _, _, _, h, _⟩ | ⟨_, _, h, _⟩ := step_cases s
  · simp [hrst] at h
  · simp [hseq] at h
  · cases hd.symm.trans hj
    exact he
  · simp [hd] at h
  · simp [hvalid] at h

theorem exec_of_faulted {i : Instr} {s : State} (hf : s.faulted = true) : exec i s = .next s := by
  obtain ⟨_, he⟩ | ⟨hf', _⟩ | ⟨hf', _⟩ := exec_cases i s
  · exact he
  · simp [hf] at hf'
  · simp [hf] at hf'

theorem acceptIllegal_of_faulted {s : State} (hf : s.faulted = true) : acceptIllegal s = .next s := by
  simp [acceptIllegal, hf]

/-- An idle FAULTED block only moves the host's pins, whatever word is offered and also if none is (R175). -/
theorem step_of_faulted {s : State} (hrst : s.rst = false) (hseq : s.seq = .idle) (hf : s.faulted = true) :
    step s = .next s.driveNext := by
  have hf' : s.driveNext.faulted = true := (driveNext_faulted s).trans hf
  obtain ⟨h, _⟩ | ⟨_, _, h, _⟩ | ⟨_, _, _, i, _, he⟩ | ⟨_, _, _, _, _, he⟩ | ⟨_, _, _, he⟩ := step_cases s
  · simp [hrst] at h
  · simp [hseq] at h
  · exact he.trans (exec_of_faulted hf')
  · exact he.trans (acceptIllegal_of_faulted hf')
  · exact he

/-- Settles O9: R172's rows in their order. An idle block discards while FAULTED (`step_of_faulted`); otherwise the step
is the acceptance of the word (`step_of_illegal`, `step_of_command`), and each later row is that command's own answer. -/
theorem checksRunInOrder : Obligations.ChecksRunInOrder := by
  refine fun s hrst hvalid => ⟨fun hseq => ⟨step_of_faulted hrst hseq, ?illegal, ?notConfigured, ?depth, ?rows, ?output⟩,
    fun k => step_of_running hrst⟩
  case illegal =>
    intro hf why hd
    rw [step_of_illegal hrst hseq hvalid hd]
    exact acceptIllegal_of_notFaulted (by simpa using hf)
  case notConfigured =>
    intro hf hc i hd hinit hgeom
    rw [step_of_command hrst hseq hvalid hd]
    exact exec_of_notConfigured (by simpa using hf) (by simpa using hc) hinit hgeom
  case depth =>
    intro hf bb hd hbb
    rw [step_of_command hrst hseq hvalid hd]
    exact exec_init_of_outOfDepth (by simpa using hf) (outOfDepth_eq_true_iff.mpr (by omega))
  case rows =>
    intro hf hc y x hd hy
    have hf' : s.driveNext.faulted = false := by simpa using hf
    have hc' : s.driveNext.configured = true := by simpa using hc
    have hy' : outOfRows s.driveNext.cfg.variant y = true := outOfRows_eq_true_iff.mpr (by simpa using hy)
    obtain ⟨color, hd⟩ | hd := hd
    · exact (step_of_command hrst hseq hvalid hd).trans (exec_wrpix_of_outOfRows hf' hc' hy')
    · exact (step_of_command hrst hseq hvalid hd).trans (exec_rdcell_of_outOfRows hf' hc' hy')
  case output =>
    intro hf hc hd
    rw [step_of_command hrst hseq hvalid hd]
    exact exec_of_succeeds (i := .output) (by simpa using hf) ⟨by simpa using hc, rfl⟩

end Sys2Proof.Machine
end

section
/-! FAULTED (R174, R175): the sequencer leaves it as it is, so that only an accepted command raises it; while it is set
the block is idle and every step moves the host's pins alone. -/

namespace Sys2Proof.Machine

/-- The "Fatal" column of R171 as a list of codes. -/
theorem mem_fatalCodes_of_fatal {code : Err} (h : code.fatal = true) :
    code ∈ [Err.configRange, .outOfBounds, .illegalCommand, .notConfigured] := by
  cases code with
  | none => simp [Err.fatal] at h
  | lineFail => simp [Err.fatal] at h
  | _ => simp

/-- Whatever follows an answered drive, a LINE_FAIL included, leaves FAULTED as it is. -/
@[simp] theorem afterDrive_faulted (k : Nat) (l : Line) (v : Level) (answer : Answer) (s : State) :
    (afterDrive k l v answer s).faulted = s.faulted := by
  unfold afterDrive
  split <;> simp

@[simp] theorem afterWait_faulted (k us : Nat) (s : State) : (afterWait k us s).faulted = s.faulted := by
  simp [afterWait]

theorem seqStep_faulted {k : Nat} {s t : State} (h : seqStep k s = .next t) : t.faulted = s.faulted := by
  obtain ⟨_, _, _, _, rfl⟩ | ⟨_, _, _, _, _, rfl⟩ | ⟨_, _, _, rfl⟩ | ⟨_, _, _, rfl⟩ := seqStep_cases h
  all_goals simp

/-- A command that raises FAULTED does so by one of the fatal errors: success leaves it (`Succeeds.faulted`). -/
theorem exec_raisesFatal_of_faulted {i : Instr} {s t : State} (h : exec i s = .next t) (hs : s.faulted = false)
    (ht : t.faulted = true) : ∃ code : Err, code.fatal = true ∧ t = s.raiseFatal code := by
  obtain ⟨hf, _⟩ | ⟨_, code, hcode, he⟩ | ⟨_, u, he, hu⟩ := exec_cases i s
  · simp [hs] at hf
  · cases he.symm.trans h
    exact ⟨code, hcode, rfl⟩
  · cases he.symm.trans h
    simp [hu.faulted, hs] at ht

theorem step_raisesFatal_of_faulted {s t : State} (h : step s = .next t) (hs : s.faulted = false)
    (ht : t.faulted = true) : s.rst = false ∧ s.seq = .idle ∧ s.cmdValid = true ∧
      ∃ code : Err, code.fatal = true ∧ t = s.driveNext.raiseFatal code := by
  have hs' : s.driveNext.faulted = false := (driveNext_faulted s).trans hs
  obtain ⟨_, he⟩ | ⟨_, k, _, he⟩ | ⟨hrst, hseq, hvalid, i, _, he⟩ | ⟨hrst, hseq, hvalid, _, _, he⟩ | ⟨_, _, _, he⟩ :=
    step_cases s
  · cases he.symm.trans h
    simp at ht
  · simp [seqStep_faulted (he.symm.trans h), hs] at ht
  · exact ⟨hrst, hseq, hvalid, exec_raisesFatal_of_faulted (he.symm.trans h) hs' ht⟩
  · cases (he.trans (acceptIllegal_of_notFaulted hs')).symm.trans h
    exact ⟨hrst, hseq, hvalid, .illegalCommand, rfl, rfl⟩
  · cases he.symm.trans h
    simp [hs] at ht

/-- Settles O26: a step that raises FAULTED is `raiseFatal` of a fatal code (`step_raisesFatal_of_faulted`). -/
theorem fatalEntryWritesErrAndFaultedOnly : Obligations.FatalEntryWritesErrAndFaultedOnly := by
  intro s t h hs ht
  obtain ⟨hrst, hseq, hvalid, code, hcode, rfl⟩ := step_raisesFatal_of_faulted h hs ht
  exact ⟨hrst, hseq, hvalid, code, mem_fatalCodes_of_fatal hcode, rfl⟩

/-- The frame of the host's move (R23): its pins and the two lists it reads, each of which loses its first entry. -/
theorem driveNext_eq (s : State) :
    s.driveNext = { s with cmd := s.driveNext.cmd, cmdValid := s.driveNext.cmdValid, rst := s.driveNext.rst,
                           host := s.host.tail, resets := s.resets.tail } := by
  cases hh : s.host with
  | nil => simp [State.driveNext, State.driveCmd, State.driveRst, hh]
  | cons d rest => cases d <;> simp [State.driveNext, State.driveCmd, State.driveRst, hh]

/-- STATUS reads the block and the build only (R24). -/
theorem statusWord_of_sameBlock {s t : State} (h : SameBlock s t) : statusWord t = statusWord s := by
  simp [statusWord, State.bbStatus, State.busy, h.cfg, h.configured, h.bb, h.err, h.faulted, h.seq]

/-- A sequencer runs only in a block that is not FAULTED (R175). -/
theorem State.Inv.seq_eq_idle_of_faulted {s : State} (hi : s.Inv) (hf : s.faulted = true) : s.seq = .idle := by
  cases hseq : s.seq with
  | idle => rfl
  | running k =>
    obtain ⟨_, _, hnf⟩ := hi.seq k hseq
    simp [hf] at hnf

theorem cmdReady_of_idle {s : State} (hseq : s.seq = .idle) : s.cmdReady = true := by
  simp [State.cmdReady, State.busy, Seq.busy, hseq]

/-- Settles O27: the invariant has a FAULTED block idle, so its step is the host's move alone (`step_of_faulted`), whose
frame is `driveNext_eq`. -/
theorem faultedDiscardsEveryCommand : Obligations.FaultedDiscardsEveryCommand := by
  intro s hi hf hrst
  have hseq := hi.seq_eq_idle_of_faulted hf
  exact ⟨cmdReady_of_idle hseq, s.driveNext, step_of_faulted hrst hseq hf, driveNext_eq s, rfl,
    statusWord_of_sameBlock (driveNext_sameBlock s)⟩

end Sys2Proof.Machine
end

section
/-! The sequencer's k-th event is the trace's (R31, R148): the counters name the row of the scan and the place in it. -/

namespace Sys2Proof.Machine

/-- A row read at an index: the columns take eight events each, and the tail begins at 512 (R147). -/
theorem row_getElem? (s : State) (t r m : Nat) :
    (rowShift s t r ++ rowTail s.cfg r)[m]? =
      if m < 512 then (columnEvents s t r (m / 8))[m % 8]? else (rowTail s.cfg r)[m - 512]? := by
  rw [List.getElem?_append, rowShift_length]
  split
  · rw [rowShift, flatMap_range_getElem? _ (columnEvents_length s t r) (by decide),
      if_pos (show m / 8 < 64 by omega)]
  · rfl

/-- The number of events before the final blank (R148). -/
theorem subFrames_length (s : State) :
    ((List.range s.countReg.toNat).flatMap fun i => subFrame s i).length =
      rowCount s * rowLength s.cfg.variant := by
  rw [flatMap_range_length _ (subFrame_length s), rowCount, Nat.mul_assoc]

theorem eventAt_of_row_lt {s : State} {k : Nat} (hrow : k / rowLength s.cfg.variant < rowCount s) :
    eventAt s k = (scanTrace s)[k]? := by
  have hi := (Nat.div_lt_iff_lt_mul (rows_pos s.cfg.variant)).mpr hrow
  have hr := Nat.mod_lt (k / rowLength s.cfg.variant) (rows_pos s.cfg.variant)
  have h := scanTrace_getElem?_row s hi hr (Nat.mod_lt k (rowLength_pos s.cfg.variant))
  rw [Nat.div_add_mod', Nat.div_add_mod'] at h
  rw [h, row_getElem?, eventAt, position, if_pos hrow]
  split <;> rfl

theorem eventAt_of_rowCount_le {s : State} {k : Nat} (hrow : rowCount s ≤ k / rowLength s.cfg.variant) :
    eventAt s k = (scanTrace s)[k]? := by
  have hk : rowCount s * rowLength s.cfg.variant ≤ k := (Nat.le_div_iff_mul_le (rowLength_pos _)).mp hrow
  rw [scanTrace, List.getElem?_append_right (by rwa [subFrames_length]), subFrames_length, eventAt, position,
    if_neg (Nat.not_lt.mpr hrow)]
  by_cases hlast : k = rowCount s * rowLength s.cfg.variant
  · rw [if_pos hlast, hlast, Nat.sub_self]
    rfl
  · rw [if_neg hlast, List.getElem?_eq_none (Nat.sub_pos_of_lt (lt_of_le_of_ne' hk hlast))]
    rfl

/-- What the sequencer computes from its counters is the trace as R132 writes it (log 4). -/
theorem eventAt_eq_getElem? (s : State) (k : Nat) : eventAt s k = (scanTrace s)[k]? :=
  (Nat.lt_or_ge _ _).elim eventAt_of_row_lt eventAt_of_rowCount_le

end Sys2Proof.Machine
end

section
/-! The entry into LINE_FAIL (R144, R176). -/

namespace Sys2Proof.Machine

theorem hold_lineReply (s : State) : s.hold.lineReply = s.lineReply := by
  simp [State.lineReply]

theorem hold_eventAt (s : State) (k : Nat) : eventAt s.hold k = eventAt s k :=
  eventAt_congr (hold_fb s) (hold_stepReg s) (hold_countReg s) (hold_cfg s) k

theorem seqStep_of_answer {s : State} {k : Nat} {l : Line} {v : Level} {answer : Answer}
    (he : eventAt s k = some (.drive l v)) (hr : s.lineReply = some answer) :
    seqStep k s = .next (afterDrive k l v answer s) := by
  simp [seqStep, he, hr]

theorem afterDrive_of_fail {s : State} (hp : s.cfg.policy = .propagate) (k : Nat) (l : Line) (v : Level) :
    afterDrive k l v .fail s = (s.takeLine.log (.drive l v .fail)).raiseLineFail := by
  simp [afterDrive, hp]

/-- A failed drive under Propagate is answered by the LINE_FAIL entry, the drive being on record. -/
theorem step_of_fail {s : State} {k : Nat} {l : Line} {v : Level} (hrst : s.rst = false) (hseq : s.seq = .running k)
    (hp : s.cfg.policy = .propagate) (he : (scanTrace s)[k]? = some (.drive l v)) (hr : s.lineReply = some .fail) :
    step s = .next (s.hold.takeLine.log (.drive l v .fail)).raiseLineFail := by
  rw [step_of_running hrst hseq,
    seqStep_of_answer ((hold_eventAt s k).trans ((eventAt_eq_getElem? s k).trans he)) ((hold_lineReply s).trans hr),
    afterDrive_of_fail (by rwa [hold_cfg])]

/-- Settles O53: the step is the LINE_FAIL entry (`step_of_fail`); by the invariant the block was configured and not
FAULTED while it ran, which the entry keeps, so OUTPUT's checks pass again. -/
theorem lineFailIsNotFatal : Obligations.LineFailIsNotFatal := by
  intro s k l v hi hrst hseq hp he hr
  obtain ⟨_, hc, hf⟩ := hi.seq k hseq
  refine ⟨_, step_of_fail hrst hseq hp he hr, rfl, rfl, rfl, rfl, by simpa using hf, ?_, ?_, ?_, ?_, ?_,
    exec_of_succeeds (i := .output) (by simpa using hf) ⟨by simpa using hc, rfl⟩⟩
  all_goals simp

end Sys2Proof.Machine
end

section
/-! Decode and encode (R70 to R79): a word is a command's word exactly when it has the command's fields, and the words
of each kind are counted by the operands that spell them. -/

namespace Sys2Proof

theorem extractLsb'_eq_iff_opField {w : Word} {op : BitVec 4} : w.extractLsb' 28 4 = op ↔ opField w = op.toNat :=
  BitVec.toNat_inj.symm

/-- A field made of two is read as the two. -/
theorem extractLsb'_eq_append_iff {k m n start : Nat} {w : BitVec k} {a : BitVec m} {b : BitVec n} :
    w.extractLsb' start (m + n) = a ++ b ↔ w.extractLsb' (start + n) m = a ∧ w.extractLsb' start n = b := by
  have hhigh : (w.extractLsb' start (m + n)).extractLsb' n m = w.extractLsb' (start + n) m := by
    ext i hi
    simp [Nat.add_assoc, show n + i < m + n by omega]
  have hlow : (w.extractLsb' start (m + n)).extractLsb' 0 n = w.extractLsb' start n := by
    ext i hi
    simp [show i < m + n by omega]
  rw [eq_append_iff, hhigh, hlow]

theorem eq_opcode_append_zero_iff {w : Word} {op : BitVec 4} :
    w = op ++ 0#28 ↔ opField w = op.toNat ∧ zeroN w = 0 :=
  (eq_append_iff (m := 4) (n := 28)).trans (and_congr_left' extractLsb'_eq_iff_opField)

/-- A word is a command's word exactly when its fields are the command's (R72 to R75). -/
theorem eq_encode_iff {w : Word} {i : Instr} : w = encode i ↔ i.SpelledBy w := by
  cases i with
  | init bb =>
    rw [Instr.SpelledBy, ← and_assoc]
    refine (eq_append_iff (m := 28) (n := 4)).trans (and_congr_left' ?_)
    exact (extractLsb'_eq_append_iff (m := 4) (n := 24)).trans (and_congr_left' extractLsb'_eq_iff_opField)
  | wrpix y x color =>
    rw [Instr.SpelledBy, ← and_assoc, ← and_assoc]
    refine (eq_append_iff (m := 16) (n := 16)).trans (and_congr_left' ?_)
    refine (extractLsb'_eq_append_iff (m := 10) (n := 6)).trans (and_congr_left' ?_)
    exact (extractLsb'_eq_append_iff (m := 4) (n := 6)).trans (and_congr_left' extractLsb'_eq_iff_opField)
  | clear => exact eq_opcode_append_zero_iff
  | output => exact eq_opcode_append_zero_iff
  | geom => exact eq_opcode_append_zero_iff
  | rdcell y x =>
    rw [Instr.SpelledBy, and_comm (a := zeroX w = 0), ← and_assoc, ← and_assoc]
    refine (eq_append_iff (m := 16) (n := 16)).trans (and_congr_left' ?_)
    refine (extractLsb'_eq_append_iff (m := 10) (n := 6)).trans (and_congr_left' ?_)
    exact (extractLsb'_eq_append_iff (m := 4) (n := 6)).trans (and_congr_left' extractLsb'_eq_iff_opField)

theorem decode_eq_command_iff {w : Word} {i : Instr} : decode w = .command i ↔ w = encode i :=
  ⟨fun h => eq_encode_iff.mpr (spelledBy_of_decode h), fun h => decode_of_spelledBy (eq_encode_iff.mp h)⟩

@[simp] theorem decode_encode (i : Instr) : decode (encode i) = .command i := decode_eq_command_iff.mpr rfl

/-- Settles O1: decoding and encoding are inverse to each other, since both say which fields spell a command
(`decode_eq_command_iff`). -/
theorem decodeEncodeAgree : Obligations.DecodeEncodeAgree :=
  ⟨decode_encode, fun _ _ h => (decode_eq_command_iff.mp h).symm⟩

theorem encode_injective : Function.Injective encode := fun i j h => by
  have hd := (decode_encode i).symm.trans (h ▸ decode_encode j)
  simpa using hd

theorem bitVec_card (n : Nat) : Nat.card (BitVec n) = 2 ^ n :=
  Nat.card_eq_of_equiv_fin BitVec.equivFin.toEquiv

/-- The words that decode to a command of one kind are as many as its operands. -/
theorem card_words_of_command {α : Type} {f : α → Instr} (hf : Function.Injective f) :
    Nat.card {w : Word // ∃ a, decode w = .command (f a)} = Nat.card α := by
  have hrange : {w : Word | ∃ a, decode w = .command (f a)} = Set.range (encode ∘ f) := by
    ext w
    simp [decode_eq_command_iff, eq_comm]
  exact (Nat.card_congr (Equiv.setCongr hrange)).trans (Nat.card_range_of_injective (encode_injective.comp hf))

/-- A command is one of the six kinds with its operands. -/
def Instr.equivOperands :
    Instr ≃ BitVec 4 ⊕ (BitVec 6 × BitVec 6 × BitVec 16) ⊕ Unit ⊕ Unit ⊕ Unit ⊕ (BitVec 6 × BitVec 6) where
  toFun
    | .init bb => .inl bb
    | .wrpix y x color => .inr (.inl (y, x, color))
    | .clear => .inr (.inr (.inl ()))
    | .output => .inr (.inr (.inr (.inl ())))
    | .geom => .inr (.inr (.inr (.inr (.inl ()))))
    | .rdcell y x => .inr (.inr (.inr (.inr (.inr (y, x)))))
  invFun
    | .inl bb => .init bb
    | .inr (.inl (y, x, color)) => .wrpix y x color
    | .inr (.inr (.inl ())) => .clear
    | .inr (.inr (.inr (.inl ()))) => .output
    | .inr (.inr (.inr (.inr (.inl ())))) => .geom
    | .inr (.inr (.inr (.inr (.inr (y, x))))) => .rdcell y x
  left_inv i := by cases i <;> rfl
  right_inv o := by obtain bb | ⟨y, x, color⟩ | _ | _ | _ | ⟨y, x⟩ := o <;> rfl

theorem instr_card : Nat.card Instr = 16 + 2 ^ 28 + 3 + 2 ^ 12 := by
  rw [Nat.card_congr Instr.equivOperands]
  simp only [Nat.card_sum, Nat.card_prod, bitVec_card, Nat.card_unique]
  rfl

theorem decode_isIllegal_iff {w : Word} : (∃ why, decode w = .illegal why) ↔ ¬ ∃ i, decode w = .command i := by
  cases decode w <;> simp

/-- Every word is a command's or illegal, so the illegal words are those that remain. -/
theorem card_illegal_words :
    Nat.card {w : Word // ∃ why, decode w = .illegal why} = 2 ^ 32 - (16 + 2 ^ 28 + 3 + 2 ^ 12) := by
  have hsum : Nat.card {w : Word // ∃ i, decode w = .command i} +
      Nat.card {w : Word // ¬ ∃ i, decode w = .command i} = 2 ^ 32 := by
    classical rw [← Nat.card_sum, Nat.card_congr (Equiv.sumCompl _), bitVec_card]
  have hcommands : Nat.card {w : Word // ∃ i, decode w = .command i} = _ :=
    (card_words_of_command Function.injective_id).trans instr_card
  simp only [decode_isIllegal_iff]
  omega

/-- Settles O2: each kind has as many words as operands (`card_words_of_command`), and the illegal words are the rest
(`card_illegal_words`). -/
theorem wordsOfEachCommand : Obligations.WordsOfEachCommand := by
  have hnone {i : Instr} : Nat.card {w : Word // decode w = .command i} = 1 := by
    simp [decode_eq_command_iff]
  refine ⟨?_, ?_, hnone, hnone, hnone, ?_, card_illegal_words⟩
  · exact (card_words_of_command fun _ _ => Instr.init.inj).trans (bitVec_card 4)
  · have h := card_words_of_command (f := fun o : BitVec 6 × BitVec 6 × BitVec 16 => .wrpix o.1 o.2.1 o.2.2)
      fun o o' h => by simpa [Prod.ext_iff] using h
    simp only [Prod.exists, Nat.card_prod, bitVec_card] at h
    exact h
  · have h := card_words_of_command (f := fun o : BitVec 6 × BitVec 6 => .rdcell o.1 o.2)
      fun o o' h => by simpa [Prod.ext_iff] using h
    simp only [Prod.exists, Nat.card_prod, bitVec_card] at h
    exact h

end Sys2Proof
end

section
/-! The assembler (R80): a line whose operands fit spells the words of its commands. -/

namespace Sys2Proof.Machine

theorem ofNat_toNat_of_le {n v m : Nat} (hv : v ≤ m) (hm : m < 2 ^ n) : (BitVec.ofNat n v).toNat = v :=
  (BitVec.toNat_ofNat v n).trans (Nat.mod_eq_of_lt (hv.trans_lt hm))

/-- A field shifted to its place in a 32-bit word loses no bit. -/
theorem ofNat_shiftLeft_toNat {v m k : Nat} (hv : v ≤ m) (hm : m < 2 ^ 32) (hk : m * 2 ^ k < 2 ^ 32) :
    (BitVec.ofNat 32 v <<< k).toNat = v <<< k := by
  have hlt : v * 2 ^ k < 2 ^ 32 := (Nat.mul_le_mul_right _ hv).trans_lt hk
  rw [BitVec.toNat_shiftLeft, ofNat_toNat_of_le hv hm, Nat.shiftLeft_eq, Nat.mod_eq_of_lt hlt]

/-! The number of a word, by its operands. -/

theorem encode_init_toNat (bb : BitVec 4) : (encode (.init bb)).toNat = 0x10000000 ||| bb.toNat := by
  simp only [encode, BitVec.toNat_append]
  rfl

theorem encode_wrpix_toNat (y x : BitVec 6) (color : BitVec 16) :
    (encode (.wrpix y x color)).toNat = 0x20000000 ||| y.toNat <<< 22 ||| x.toNat <<< 16 ||| color.toNat := by
  simp only [encode, BitVec.toNat_append, Nat.shiftLeft_or_distrib, ← Nat.shiftLeft_add]
  rfl

theorem encode_rdcell_toNat (y x : BitVec 6) :
    (encode (.rdcell y x)).toNat = 0x60000000 ||| y.toNat <<< 22 ||| x.toNat <<< 16 := by
  simp only [encode, BitVec.toNat_append, Nat.shiftLeft_or_distrib, ← Nat.shiftLeft_add]
  exact Nat.or_zero _

theorem pixelWord_eq_encode {p : Pixel} (h : p.wellFormed = true) :
    pixelWord p = encode (.wrpix (BitVec.ofNat 6 p.y) (BitVec.ofNat 6 p.x) (BitVec.ofNat 16 p.color)) := by
  obtain ⟨⟨hx, hy⟩, hcolor⟩ : (p.x ≤ 63 ∧ p.y ≤ 63) ∧ p.color ≤ 0xFFFF := by simpa [Pixel.wellFormed] using h
  rw [← BitVec.toNat_inj, encode_wrpix_toNat, ofNat_toNat_of_le hx (by decide), ofNat_toNat_of_le hy (by decide),
    ofNat_toNat_of_le hcolor (by decide), pixelWord]
  simp only [BitVec.toNat_or, ofNat_shiftLeft_toNat hx (k := 16) (by decide) (by decide),
    ofNat_shiftLeft_toNat hy (k := 22) (by decide) (by decide), ofNat_toNat_of_le hcolor (n := 32) (by decide)]
  rfl

/-- A line whose operands fit spells its commands' words. -/
theorem lineWords_eq_encode {l : SourceLine} (h : l.wellFormed = true) :
    lineWords l = (lineCommands l).map encode := by
  cases l with
  | init bb =>
    have hbb : bb ≤ 15 := by simpa [SourceLine.wellFormed] using h
    refine congrArg (· :: []) (BitVec.eq_of_toNat_eq ?_)
    rw [encode_init_toNat, BitVec.toNat_or, ofNat_toNat_of_le hbb (by decide), ofNat_toNat_of_le hbb (by decide)]
    rfl
  | wrpix p => exact congrArg (· :: []) (pixelWord_eq_encode h)
  | wrpixRgb x y cr cg cb =>
    obtain ⟨⟨⟨⟨hx, hy⟩, hcr⟩, hcg⟩, hcb⟩ : (((x ≤ 63 ∧ y ≤ 63) ∧ cr ≤ 31) ∧ cg ≤ 63) ∧ cb ≤ 31 := by
      simpa [SourceLine.wellFormed] using h
    refine congrArg (· :: []) (BitVec.eq_of_toNat_eq ?_)
    rw [encode_wrpix_toNat]
    simp only [BitVec.toNat_append, Nat.shiftLeft_or_distrib, ← Nat.shiftLeft_add, BitVec.toNat_or, ← Nat.or_assoc,
      ofNat_shiftLeft_toNat hx (k := 16) (by decide) (by decide), ofNat_toNat_of_le hx (n := 6) (by decide),
      ofNat_shiftLeft_toNat hy (k := 22) (by decide) (by decide), ofNat_toNat_of_le hy (n := 6) (by decide),
      ofNat_shiftLeft_toNat hcr (k := 11) (by decide) (by decide), ofNat_toNat_of_le hcr (n := 5) (by decide),
      ofNat_shiftLeft_toNat hcg (k := 5) (by decide) (by decide), ofNat_toNat_of_le hcg (n := 6) (by decide),
      ofNat_toNat_of_le hcb (n := 32) (by decide), ofNat_toNat_of_le hcb (n := 5) (by decide)]
    rfl
  | clear => rfl
  | output => rfl
  | geom => rfl
  | rdcell x y =>
    obtain ⟨hx, hy⟩ : x ≤ 63 ∧ y ≤ 63 := by simpa [SourceLine.wellFormed] using h
    refine congrArg (· :: []) (BitVec.eq_of_toNat_eq ?_)
    rw [encode_rdcell_toNat, BitVec.toNat_or, BitVec.toNat_or, ofNat_shiftLeft_toNat hx (by decide) (by decide),
      ofNat_shiftLeft_toNat hy (by decide) (by decide), ofNat_toNat_of_le hx (by decide),
      ofNat_toNat_of_le hy (by decide)]
    rfl
  | draw ps =>
    have hps : ∀ p ∈ ps, p.wellFormed = true := List.all_eq_true.mp h
    simp only [lineWords, lineCommands, List.map_map]
    exact List.map_congr_left fun p hp => pixelWord_eq_encode (hps p hp)

/-- Settles O6: the words are the encodings of the line's commands (`lineWords_eq_encode`), which decode back
(`decode_encode`). -/
theorem assembledLinesDecode : Obligations.AssembledLinesDecode := by
  refine fun l => ⟨fun h => ⟨lineWords l, if_pos h, ?_⟩, fun h => by simp [assembleLine, h]⟩
  rw [lineWords_eq_encode h, List.map_map]
  exact List.map_congr_left fun i _ => decode_encode i

/-- Settles O5: the decoder run on each word. -/
theorem writtenOutWordsDecode : Obligations.WrittenOutWordsDecode := by
  unfold Obligations.WrittenOutWordsDecode
  decide

end Sys2Proof.Machine
end

section
/-! DRAW (R80): pixels in range leave a block that is ready for the next; the first one out of range faults it, and a
FAULTED block discards the rest. -/

namespace Sys2Proof.Machine

theorem execAll_append {is js : List Instr} {s t : State} (h : execAll is s = .next t) :
    execAll (is ++ js) s = execAll js t := by
  induction is generalizing s with
  | nil =>
    cases h
    rfl
  | cons i rest ih =>
    cases he : exec i s with
    | next u =>
      rw [execAll_cons he] at h
      rw [List.cons_append, execAll_cons he]
      exact ih h
    | fault r => simp [execAll, he] at h
    | refused r => simp [execAll, he] at h

/-- A FAULTED block discards every command of a list (R175). -/
theorem execAll_of_faulted {s : State} (hf : s.faulted = true) (is : List Instr) : execAll is s = .next s := by
  induction is with
  | nil => rfl
  | cons i rest ih => rw [execAll_cons (exec_of_faulted hf), ih]

theorem height_le (v : Variant) : v.height ≤ 64 := by
  cases v <;> decide

/-- Pixels in range are written one after the other, and the block stays ready. -/
theorem execAll_draw_of_inRange {s : State} {ps : List Pixel} (hf : s.faulted = false) (hc : s.configured = true)
    (hps : ∀ q ∈ ps, q.y < s.cfg.variant.height) :
    ∃ t, execAll (lineCommands (.draw ps)) s = .next t ∧ t.faulted = false ∧ t.configured = true ∧ t.cfg = s.cfg := by
  induction ps generalizing s with
  | nil => exact ⟨s, rfl, hf, hc, rfl⟩
  | cons q rest ih =>
    obtain ⟨hq, hrest⟩ := List.forall_mem_cons.mp hps
    have hrow : outOfRows s.cfg.variant (BitVec.ofNat 6 q.y) = false := by
      have hle := height_le s.cfg.variant
      rw [outOfRows_eq_false_iff, ofNat_toNat_of_le (m := 63) (by omega) (by decide)]
      exact hq
    have he := exec_of_succeeds (i := .wrpix (BitVec.ofNat 6 q.y) (BitVec.ofNat 6 q.x) (BitVec.ofNat 16 q.color)) hf
      ⟨hc, hrow, rfl⟩
    obtain ⟨t, ht, htf, htc, hcfg⟩ := ih (s := { s with fb := _, err := .none }) hf hc hrest
    exact ⟨t, (execAll_cons he).trans ht, htf, htc, hcfg⟩

/-- Settles O7: the pixels in range leave a block that is ready (`execAll_draw_of_inRange`), the next one faults it, and
a FAULTED block discards the rest (`execAll_of_faulted`). -/
theorem drawStopsAtTheFaultingPixel : Obligations.DrawStopsAtTheFaultingPixel := by
  intro s before after p hf hc hbefore hp hp63
  obtain ⟨t, ht, htf, htc, hcfg⟩ := execAll_draw_of_inRange hf hc hbefore
  have hrow : outOfRows t.cfg.variant (BitVec.ofNat 6 p.y) = true := by
    rw [outOfRows_eq_true_iff, ofNat_toNat_of_le hp63 (by decide), hcfg]
    exact hp
  refine ⟨t, ht, ?_⟩
  rw [lineCommands, List.map_append]
  refine (execAll_append ht).trans ?_
  rw [List.map_cons, execAll_cons (exec_wrpix_of_outOfRows htf htc hrow)]
  exact execAll_of_faulted rfl _

end Sys2Proof.Machine
end

section
/-! The colour path (R94, R95, R97, R100, R101, R108). -/

namespace Sys2Proof.Machine

theorem e5_replicate_toNat (v : BitVec 5) : (e5 .replicate v).toNat = 8 * v.toNat + v.toNat / 4 :=
  (replicateExpands.1 v).2

theorem e6_replicate_toNat (v : BitVec 6) : (e6 .replicate v).toNat = 4 * v.toNat + v.toNat / 16 :=
  (replicateExpands.2 v).2

/-- R94 stays inside 8 bits. -/
theorem e5_roundScale_toNat (v : BitVec 5) : (e5 .roundScale v).toNat = (v.toNat * 255 + 15) / 31 := by
  have hv := v.isLt
  exact ofNat_toNat_of_le (m := 255) (by omega) (by decide)

theorem e6_roundScale_toNat (v : BitVec 6) : (e6 .roundScale v).toNat = (v.toNat * 255 + 31) / 63 := by
  have hv := v.isLt
  exact ofNat_toNat_of_le (m := 255) (by omega) (by decide)

/-- Settles O21: the two formulas, and every input looked at. -/
theorem roundScaleDiffersAtFourteenInputs : Obligations.RoundScaleDiffersAtFourteenInputs :=
  ⟨e5_roundScale_toNat, e6_roundScale_toNat, by decide, by decide⟩

theorem e5_strictMono (rule : ExpandRule) {v w : BitVec 5} (h : v.toNat < w.toNat) :
    (e5 rule v).toNat < (e5 rule w).toNat := by
  cases rule with
  | replicate =>
    rw [e5_replicate_toNat, e5_replicate_toNat]
    omega
  | roundScale =>
    rw [e5_roundScale_toNat, e5_roundScale_toNat]
    omega

theorem e6_strictMono (rule : ExpandRule) {v w : BitVec 6} (h : v.toNat < w.toNat) :
    (e6 rule v).toNat < (e6 rule w).toNat := by
  cases rule with
  | replicate =>
    rw [e6_replicate_toNat, e6_replicate_toNat]
    omega
  | roundScale =>
    rw [e6_roundScale_toNat, e6_roundScale_toNat]
    omega

/-- The all-zero colour expands to zeros, under either rule. -/
theorem expandColor_zero (rule : ExpandRule) : expandColor rule 0x0000#16 = { red := 0, green := 0, blue := 0 } := by
  cases rule <;> rfl

/-- The all-one colour expands to 255 in every channel, under either rule. -/
theorem expandColor_allOnes (rule : ExpandRule) :
    expandColor rule 0xFFFF#16 = { red := 255, green := 255, blue := 255 } := by
  cases rule <;> rfl

/-- Settles O22: the expansions are strictly increasing (`e5_strictMono`, `e6_strictMono`); the extreme colours expand
to 0 and 255 (`expandColor_zero`, `expandColor_allOnes`), which a legal gamma table keeps. -/
theorem extremeColoursAreStoredExactly : Obligations.ExtremeColoursAreStoredExactly := by
  refine ⟨fun rule v w => e5_strictMono rule, fun rule v w => e6_strictMono rule, fun cfg ⟨_, _, hzero, hmax⟩ => ?_⟩
  simp only [ingest, expandColor_zero, expandColor_allOnes, hzero, hmax, and_self]

end Sys2Proof.Machine
end

section
/-! The gamma ROM (R100, R101): the table is the rounded gamma curve, which is monotone, so the table is. -/

namespace Sys2Proof.Machine

/-- `v` is `255 * (i/255)^(14/5)` rounded to the nearest integer, with fifth powers taken: a statement about natural
numbers. -/
def RoundsGammaCurve (i v : Nat) : Prop :=
  (2 * v - 1) ^ 5 * 255 ^ 9 ≤ 32 * i ^ 14 ∧ 32 * i ^ 14 < (2 * v + 1) ^ 5 * 255 ^ 9

theorem gamma28_roundsGammaCurve : ∀ i < 256, RoundsGammaCurve i (gamma28.lookup (BitVec.ofNat 8 i)).toNat := by
  unfold RoundsGammaCurve
  decide +kernel

/-- The fifth power of the gamma curve is a 14th power. -/
theorem gammaCurve_pow_five (i : Nat) :
    (510 * ((i : ℝ) / 255) ^ ((28 : ℝ) / 10)) ^ 5 * 255 ^ 9 = 32 * (i : ℝ) ^ 14 := by
  have hx : (0 : ℝ) ≤ (i : ℝ) / 255 := by positivity
  have hpow : (((i : ℝ) / 255) ^ ((28 : ℝ) / 10)) ^ 5 = ((i : ℝ) / 255) ^ 14 := by
    rw [← Real.rpow_natCast, ← Real.rpow_mul hx, ← Real.rpow_natCast ((i : ℝ) / 255)]
    norm_num
  rw [mul_pow, hpow]
  field_simp
  ring

theorem RoundsGammaCurve.eq_floor {i v : Nat} (h : RoundsGammaCurve i v) :
    v = ⌊(255 : ℝ) * ((i : ℝ) / 255) ^ ((28 : ℝ) / 10) + 1 / 2⌋₊ := by
  obtain ⟨hlow, hhigh⟩ := h
  have hcurve := gammaCurve_pow_five i
  set y := ((i : ℝ) / 255) ^ ((28 : ℝ) / 10)
  have hy : 0 ≤ y := by positivity
  have hle : ((2 * v - 1 : ℕ) : ℝ) ≤ 510 * y := by
    refine le_of_pow_le_pow_left₀ (n := 5) (by decide) (by positivity) ?_
    refine le_of_mul_le_mul_right ?_ (show (0 : ℝ) < 255 ^ 9 by positivity)
    rw [hcurve]
    exact_mod_cast hlow
  have hlt : 510 * y < 2 * v + 1 := by
    refine lt_of_pow_lt_pow_left₀ 5 (by positivity) ?_
    refine lt_of_mul_lt_mul_right ?_ (show (0 : ℝ) ≤ 255 ^ 9 by positivity)
    rw [hcurve]
    exact_mod_cast hhigh
  have hpred : (2 * v : ℝ) ≤ ((2 * v - 1 : ℕ) : ℝ) + 1 := by
    exact_mod_cast (show 2 * v ≤ 2 * v - 1 + 1 by omega)
  exact ((Nat.floor_eq_iff (by positivity)).mpr ⟨by linarith, by linarith⟩).symm

/-- Settles O23: the table's values round the curve (`gamma28_roundsGammaCurve`), and the rounding is the floor
(`RoundsGammaCurve.eq_floor`). -/
theorem gammaRomIsGammaTwoPointEight : Obligations.GammaRomIsGammaTwoPointEight :=
  fun i hi => (gamma28_roundsGammaCurve i hi).eq_floor

/-- Settles O24: the entries are floors of a monotone curve (`gammaRomIsGammaTwoPointEight`); item 4 holds with any
tolerance, since the entry at 127 is 36. -/
theorem gammaRomIsLegal : Obligations.GammaRomIsLegal := by
  have hmid : gamma28.lookup 127 = 36 := by decide
  refine ⟨fun v hv => ?_, by decide, by decide, hmid, ?_⟩
  · rw [gammaRomIsGammaTwoPointEight v (by omega), gammaRomIsGammaTwoPointEight (v + 1) (by omega)]
    gcongr
    simp
  · rw [GammaRom.MidTone, hmid]
    exact ⟨Nat.le_add_right 36 _, Nat.le_add_right 36 _⟩

end Sys2Proof.Machine
end

section
/-! The values WRPIX can store (R108): every 5-bit and 6-bit channel value comes from some colour, so they are the
images of these. -/

namespace Sys2Proof.Machine

@[simp] theorem redOf_append (r : BitVec 5) (g : BitVec 6) (b : BitVec 5) : redOf (r ++ g ++ b) = r :=
  ((extractLsb'_eq_append_iff (m := 5) (n := 6)).mp (BitVec.extractLsb'_append_eq_left (a := r ++ g) (b := b))).1

@[simp] theorem greenOf_append (r : BitVec 5) (g : BitVec 6) (b : BitVec 5) : greenOf (r ++ g ++ b) = g :=
  ((extractLsb'_eq_append_iff (m := 5) (n := 6)).mp (BitVec.extractLsb'_append_eq_left (a := r ++ g) (b := b))).2

@[simp] theorem blueOf_append (r : BitVec 5) (g : BitVec 6) (b : BitVec 5) : blueOf (r ++ g ++ b) = b :=
  BitVec.extractLsb'_append_eq_right

/-- The red and blue values of R108. -/
def storable5 : List Nat :=
  [0, 1, 2, 3, 4, 6, 8, 11, 14, 18, 22, 27, 33, 40, 48, 56, 64, 75, 86, 98, 110, 126, 140, 156, 173, 193, 213, 233, 255]

/-- The green values of R108. -/
def storable6 : List Nat :=
  [0, 1, 2, 3, 4, 6, 7, 8, 9, 10, 12, 13, 15, 17, 19, 21, 24, 26, 29, 32, 35, 39, 42, 46, 50, 54, 58, 62, 67, 72, 77,
    82, 87, 93, 99, 105, 112, 120, 127, 135, 142, 150, 158, 167, 175, 184, 193, 203, 213, 223, 233, 244, 255]

/-- A list that holds the values of `f`, and no others, lists its image. -/
theorem exists_eq_iff_toNat_mem {α : Type} {f : α → Byte} {values : List Nat} (hmem : ∀ a, (f a).toNat ∈ values)
    (honto : ∀ n ∈ values, ∃ a, (f a).toNat = n) {b : Byte} : (∃ a, f a = b) ↔ b.toNat ∈ values := by
  refine ⟨?_, fun h => ?_⟩
  · rintro ⟨a, rfl⟩
    exact hmem a
  · obtain ⟨a, ha⟩ := honto _ h
    exact ⟨a, BitVec.eq_of_toNat_eq ha⟩

theorem exists_gamma28_e5_iff {b : Byte} :
    (∃ v : BitVec 5, gamma28.lookup (e5 .replicate v) = b) ↔ b.toNat ∈ storable5 :=
  exists_eq_iff_toNat_mem (by decide) (by decide)

theorem exists_gamma28_e6_iff {b : Byte} :
    (∃ v : BitVec 6, gamma28.lookup (e6 .replicate v) = b) ↔ b.toNat ∈ storable6 :=
  exists_eq_iff_toNat_mem (by decide) (by decide)

/-- The colour of three given channel values, through this hardware's colour path. -/
theorem ingest_thisBuild_append (r : BitVec 5) (g : BitVec 6) (b : BitVec 5) :
    ingest Config.thisBuild (r ++ g ++ b) =
      { red := gamma28.lookup (e5 .replicate r), green := gamma28.lookup (e6 .replicate g)
        blue := gamma28.lookup (e5 .replicate b) } := by
  simp only [ingest, expandColor, redOf_append, greenOf_append, blueOf_append]
  rfl

theorem exists_ingest_red_iff {b : Byte} : (∃ color, (ingest Config.thisBuild color).red = b) ↔ b.toNat ∈ storable5 :=
  Iff.trans ⟨fun ⟨color, h⟩ => ⟨redOf color, h⟩, fun ⟨v, h⟩ =>
    ⟨v ++ 0#6 ++ 0#5, (congrArg Triple.red (ingest_thisBuild_append v 0 0)).trans h⟩⟩ exists_gamma28_e5_iff

theorem exists_ingest_green_iff {b : Byte} :
    (∃ color, (ingest Config.thisBuild color).green = b) ↔ b.toNat ∈ storable6 :=
  Iff.trans ⟨fun ⟨color, h⟩ => ⟨greenOf color, h⟩, fun ⟨v, h⟩ =>
    ⟨0#5 ++ v ++ 0#5, (congrArg Triple.green (ingest_thisBuild_append 0 v 0)).trans h⟩⟩ exists_gamma28_e6_iff

theorem exists_ingest_blue_iff {b : Byte} : (∃ color, (ingest Config.thisBuild color).blue = b) ↔ b.toNat ∈ storable5 :=
  Iff.trans ⟨fun ⟨color, h⟩ => ⟨blueOf color, h⟩, fun ⟨v, h⟩ =>
    ⟨0#5 ++ 0#6 ++ v, (congrArg Triple.blue (ingest_thisBuild_append 0 0 v)).trans h⟩⟩ exists_gamma28_e5_iff

/-- Settles O25: the listed values are the images of the channel values (`exists_ingest_red_iff` and its like for green
and blue), and 128 is in neither list. -/
theorem storableValues : Obligations.StorableValues := by
  have h5 : (128 : Byte).toNat ∉ storable5 := by decide
  have h6 : (128 : Byte).toNat ∉ storable6 := by decide
  refine ⟨fun _ => exists_ingest_red_iff, fun _ => exists_ingest_green_iff, fun _ => exists_ingest_blue_iff,
    fun color => ⟨fun h => ?_, fun h => ?_, fun h => ?_⟩⟩
  · exact h5 (exists_ingest_red_iff.mp ⟨color, h⟩)
  · exact h6 (exists_ingest_green_iff.mp ⟨color, h⟩)
  · exact h5 (exists_ingest_blue_iff.mp ⟨color, h⟩)

end Sys2Proof.Machine
end

section
/-! The pixels of FB (R51, R97): the pixel map and its inverse, a write read back, and a write done twice (R57). -/

namespace Sys2Proof.Machine

/-- Settles O17: RDCELL after WRPIX (`exec_rdcell_after_wrpix`) changes RESP only. -/
theorem writeThenReadBack : Obligations.WriteThenReadBack := by
  intro s y x color hf hc hwf hy
  obtain ⟨t, hwrite, hread⟩ := exec_rdcell_after_wrpix (x := x) (color := color) hf hc hwf hy
  exact ⟨t, _, hwrite, hread, rfl, rfl⟩

/-- The panel row of a place: R51 read backwards. -/
def Place.row (v : Variant) (p : Place) : Nat := if p.bottom then p.h + v.rows else p.h

theorem placeOf_row {v : Variant} {p : Place} (hh : p.h < v.rows) : placeOf v p.c (p.row v) = p := by
  obtain ⟨h, c, bottom⟩ := p
  cases bottom <;> simp_all [placeOf, Place.row, Nat.mod_eq_of_lt]

theorem row_placeOf {v : Variant} {x y : Nat} (hy : y < 2 * v.rows) : (placeOf v x y).row v = y := by
  simp only [placeOf, Place.row, decide_eq_true_eq]
  split
  case isTrue h => rw [Nat.mod_eq_sub_mod h, Nat.mod_eq_of_lt (by omega), Nat.sub_add_cancel h]
  case isFalse h => exact Nat.mod_eq_of_lt (by omega)

theorem Place.row_lt {v : Variant} {p : Place} (hh : p.h < v.rows) : p.row v < 2 * v.rows := by
  unfold Place.row
  split <;> omega

/-- Settles O18: the map has the inverse `Place.row` (`placeOf_row`, `row_placeOf`). -/
theorem pixelMapIsABijection : Obligations.PixelMapIsABijection := by
  refine fun v => ⟨fun x y => rfl, fun h c bottom hh hc => ?_, fun x y hy => ?_, rfl, rfl⟩
  · refine ⟨(c, Place.row v ⟨h, c, bottom⟩), ⟨hc, Place.row_lt hh, placeOf_row (p := ⟨h, c, bottom⟩) hh⟩, ?_⟩
    rintro ⟨x, y⟩ ⟨-, hy, hplace⟩
    exact Prod.ext (congrArg Place.c hplace) ((row_placeOf hy).symm.trans (congrArg (Place.row v) hplace))
  · simp [placeOf, hy]

/-- The second write of one triple changes nothing. -/
theorem Memory.writeTriple_writeTriple {m : Memory} (h : m.wf = true) (p : Place) (t : Triple) :
    (m.writeTriple p t).writeTriple p t = m.writeTriple p t := by
  have hwf := Memory.wf_writeTriple p t h
  refine Memory.eq_of_read (Memory.wf_writeTriple p t hwf) hwf fun a => ?_
  simp only [Memory.read_writeTriple hwf, Memory.read_writeTriple h]
  split_ifs <;> rfl

/-- A command that succeeds, other than OUTPUT, leaves a state in which it succeeds with no change. -/
theorem Succeeds.again {s t : State} {i : Instr} (hwf : s.fb.wf = true) (hi : i ≠ .output) (h : Succeeds s t i) :
    Succeeds t t i := by
  cases i with
  | init bb =>
    obtain ⟨hbb, rfl⟩ := h
    exact ⟨hbb, rfl⟩
  | wrpix y x color =>
    obtain ⟨hc, hy, rfl⟩ := h
    refine ⟨hc, hy, ?_⟩
    simp only [Memory.writeTriple_writeTriple hwf]
  | clear =>
    obtain ⟨hc, rfl⟩ := h
    exact ⟨hc, rfl⟩
  | output => exact absurd rfl hi
  | geom =>
    cases h
    rfl
  | rdcell y x =>
    obtain ⟨hc, hy, rfl⟩ := h
    exact ⟨hc, hy, rfl⟩

/-- Settles O19: a discarded command changes nothing, one that faults is discarded the second time, and one that
succeeds does so again with no change (`Succeeds.again`). -/
theorem commandsAreIdempotent : Obligations.CommandsAreIdempotent := by
  intro s t i hwf hi h
  obtain ⟨_, he⟩ | ⟨_, code, _, he⟩ | ⟨hf, u, he, hu⟩ := exec_cases i s
  · cases he.symm.trans h
    exact h
  · cases he.symm.trans h
    exact exec_of_faulted rfl
  · cases he.symm.trans h
    exact exec_of_succeeds (hu.faulted.trans hf) (hu.again hwf hi)

end Sys2Proof.Machine
end

section
/-! Binary code modulation (R26, R131, R149, R150): STEP and COUNT are powers of two, so a threshold comparison is a
comparison of quotients. -/

namespace Sys2Proof.Machine

theorem stepOf_toNat {bb : BitVec 4} (h : 1 ≤ bb.toNat) : (stepOf bb).toNat = 2 ^ (8 - bb.toNat) :=
  ofNat_toNat_of_le (Nat.pow_le_pow_right (by decide) (show 8 - bb.toNat ≤ 7 by omega)) (by decide)

theorem countOf_toNat {bb : BitVec 4} (h : bb.toNat ≤ 8) : (countOf bb).toNat = 2 ^ bb.toNat - 1 :=
  ofNat_toNat_of_le (Nat.sub_le_sub_right (Nat.pow_le_pow_right (by decide) h) 1) (by decide)

theorem countOf_pos {bb : BitVec 4} (h1 : 1 ≤ bb.toNat) (h8 : bb.toNat ≤ 8) : 0 < (countOf bb).toNat := by
  have hpow : 2 ^ 1 ≤ 2 ^ bb.toNat := Nat.pow_le_pow_right (by decide) h1
  rw [countOf_toNat h8]
  omega

theorem countOf_mul_stepOf {bb : BitVec 4} (h1 : 1 ≤ bb.toNat) (h8 : bb.toNat ≤ 8) :
    (countOf bb).toNat * (stepOf bb).toNat = 256 - (stepOf bb).toNat := by
  have hpow : 2 ^ bb.toNat * 2 ^ (8 - bb.toNat) = 256 := by
    rw [← pow_add, Nat.add_sub_cancel' h8]
    rfl
  rw [stepOf_toNat h1, countOf_toNat h8, Nat.sub_mul, hpow, Nat.one_mul]

/-- Settles O49: the largest threshold is COUNT * STEP = 256 - STEP (`countOf_mul_stepOf`), so none saturates, and
`v >= (i + 1) * STEP` says `v div STEP > i`. -/
theorem valueIsHighInItsFirstSubFrames : Obligations.ValueIsHighInItsFirstSubFrames := by
  intro bb h1 h8
  have hprod := countOf_mul_stepOf h1 h8
  have hpos : 0 < (stepOf bb).toNat := by
    rw [stepOf_toNat h1]
    positivity
  refine ⟨stepOf_toNat h1, countOf_toNat h8, hprod, fun i v hi => ?_⟩
  have hthreshold : threshold (stepOf bb) i = (i + 1) * (stepOf bb).toNat := by
    have hle : (i + 1) * _ ≤ _ := Nat.mul_le_mul_right (stepOf bb).toNat hi
    exact Nat.min_eq_left (by omega)
  refine ⟨hthreshold, ?_, ?_, ?_⟩
  · rw [hthreshold, lvl_eq_true_iff, Nat.lt_iff_add_one_le, Nat.le_div_iff_mul_le hpos]
  · rw [stepOf_toNat h1, Nat.shiftRight_eq_div_pow]
  · have hv := v.isLt
    rw [← Nat.lt_succ_iff, Nat.div_lt_iff_lt_mul hpos, Nat.succ_mul]
    omega

end Sys2Proof.Machine
end

section
/-! The counters and the index (R31, R148): every index before the final blank is one of a row, where the counters are
read off, and the next index is their successor. -/

namespace Sys2Proof.Machine

/-- Settles O39: `eventAt_eq_getElem?` and `scanTrace_length`. -/
theorem countersIssueTheTrace : Obligations.CountersIssueTheTrace :=
  fun s => ⟨(scanTrace_length s).symm, eventAt_eq_getElem? s⟩

/-- The index of place `m` in row `r` of sub-frame `i` (R148). -/
def rowIndex (s : State) (i r m : Nat) : Nat := (i * s.cfg.variant.rows + r) * rowLength s.cfg.variant + m

/-- The index of the final blank (R148). -/
def blankIndex (s : State) : Nat := rowCount s * rowLength s.cfg.variant

/-- An index is one of a row, or the final blank's, or past the trace. -/
theorem index_cases (s : State) (k : Nat) :
    (∃ i r m, i < s.countReg.toNat ∧ r < s.cfg.variant.rows ∧ m < rowLength s.cfg.variant ∧ k = rowIndex s i r m) ∨
    k = blankIndex s ∨ blankIndex s < k := by
  by_cases hk : k < blankIndex s
  · have hrow : k / rowLength s.cfg.variant < rowCount s := (Nat.div_lt_iff_lt_mul (rowLength_pos _)).mpr hk
    refine .inl ⟨_, k / rowLength s.cfg.variant % s.cfg.variant.rows, _,
      (Nat.div_lt_iff_lt_mul (rows_pos _)).mpr hrow, Nat.mod_lt _ (rows_pos _),
      Nat.mod_lt k (rowLength_pos s.cfg.variant), ?_⟩
    rw [rowIndex, Nat.div_add_mod', Nat.div_add_mod']
  · omega

theorem mul_add_div_eq {len q m : Nat} (hm : m < len) : (q * len + m) / len = q := by
  rw [Nat.mul_comm, Nat.mul_add_div (Nat.zero_lt_of_lt hm), Nat.div_eq_of_lt hm, Nat.add_zero]

theorem row_lt_rowCount {s : State} {i r : Nat} (hi : i < s.countReg.toNat) (hr : r < s.cfg.variant.rows) :
    i * s.cfg.variant.rows + r < rowCount s := by
  rw [rowCount, Nat.mul_comm i]
  exact Nat.mul_add_lt_mul_of_lt_of_lt hi hr

/-- The counters at an index of a row. -/
theorem position_rowIndex {s : State} {i r m : Nat} (hi : i < s.countReg.toNat) (hr : r < s.cfg.variant.rows)
    (hm : m < rowLength s.cfg.variant) :
    position s (rowIndex s i r m) =
      if m < 512 then some (.column i r (m / 8) (m % 8)) else some (.tail i r (m - 512)) := by
  have hmod : rowIndex s i r m % rowLength s.cfg.variant = m := by
    rw [rowIndex, Nat.mul_comm, Nat.mul_add_mod, Nat.mod_eq_of_lt hm]
  have hmod' : (i * s.cfg.variant.rows + r) % s.cfg.variant.rows = r := by
    rw [Nat.mul_comm, Nat.mul_add_mod, Nat.mod_eq_of_lt hr]
  rw [position, hmod, rowIndex, mul_add_div_eq hm, if_pos (row_lt_rowCount hi hr), mul_add_div_eq hr, hmod']

theorem position_blankIndex (s : State) : position s (blankIndex s) = some .finalBlank := by
  rw [position, blankIndex, Nat.mul_div_cancel _ (rowLength_pos _), if_neg (Nat.lt_irrefl _), if_pos rfl]

theorem position_of_blankIndex_lt {s : State} {k : Nat} (hk : blankIndex s < k) : position s k = none := by
  have hrow : rowCount s ≤ k / rowLength s.cfg.variant := (Nat.le_div_iff_mul_le (rowLength_pos _)).mpr hk.le
  rw [position, if_neg (Nat.not_lt.mpr hrow)]
  exact if_neg hk.ne'

/-- After a row's last index comes the next row's first one, or the first of the next sub-frame, or the final blank. -/
theorem position_next_row {s : State} {i r : Nat} (hi : i < s.countReg.toNat) (hr : r < s.cfg.variant.rows) :
    position s (rowIndex s i (r + 1) 0) =
      if r + 1 < s.cfg.variant.rows then some (.column i (r + 1) 0 0)
      else if i + 1 < s.countReg.toNat then some (.column (i + 1) 0 0 0)
      else some .finalBlank := by
  split_ifs with hrow hframe
  · exact position_rowIndex hi hrow (rowLength_pos _)
  · have hlast : rowIndex s i (r + 1) 0 = rowIndex s (i + 1) 0 0 := by
      rw [rowIndex, rowIndex, show r + 1 = s.cfg.variant.rows by omega, Nat.succ_mul]
      rfl
    rw [hlast]
    exact position_rowIndex hframe (rows_pos _) (rowLength_pos _)
  · have hlast : rowIndex s i (r + 1) 0 = blankIndex s := by
      rw [rowIndex, blankIndex, rowCount, show r + 1 = s.cfg.variant.rows by omega,
        show s.countReg.toNat = i + 1 by omega, Nat.succ_mul, Nat.add_zero]
    rw [hlast, position_blankIndex]

theorem position_succ (s : State) (k : Nat) : position s (k + 1) = (position s k).bind (Position.succ s) := by
  have hlen := rowLength_eq s.cfg.variant
  obtain ⟨i, r, m, hi, hr, hm, rfl⟩ | rfl | hk := index_cases s k
  · rw [position_rowIndex hi hr hm]
    by_cases hend : m + 1 < rowLength s.cfg.variant
    · rw [show rowIndex s i r m + 1 = rowIndex s i r (m + 1) from rfl, position_rowIndex hi hr hend]
      by_cases hcol : m < 512
      · rw [if_pos hcol, Option.bind_some, Position.succ, panelWidth]
        split_ifs <;> simp <;> omega
      · rw [if_neg hcol, if_neg (by omega), Option.bind_some, Position.succ, if_pos (by omega)]
        simp
        omega
    · have hnext : rowIndex s i r m + 1 = rowIndex s i (r + 1) 0 := by
        rw [rowIndex, rowIndex, ← Nat.add_assoc, Nat.succ_mul]
        omega
      rw [hnext, position_next_row hi hr, if_neg (show ¬ m < 512 by omega), Option.bind_some, Position.succ,
        if_neg (show ¬ m - 512 + 1 < 7 + s.cfg.variant.naddr by omega)]
  · rw [position_blankIndex, position_of_blankIndex_lt (Nat.lt_succ_self _)]
    rfl
  · rw [position_of_blankIndex_lt hk, position_of_blankIndex_lt (Nat.lt_succ_of_lt hk)]
    rfl

/-- Settles O40: `position_rowIndex` gives the start and the counters of each index, `position_succ` the advance. -/
theorem countersAdvanceWithTheIndex : Obligations.CountersAdvanceWithTheIndex := by
  refine fun s => ⟨fun hcount => ?_, position_succ s, fun k i r c m h => ?_⟩
  · simpa [rowIndex] using position_rowIndex (m := 0) hcount (rows_pos _) (rowLength_pos _)
  · obtain ⟨i', r', m', hi, hr, hm, rfl⟩ | rfl | hk := index_cases s k
    · rw [position_rowIndex hi hr hm] at h
      split at h
      · obtain ⟨rfl, rfl, rfl, rfl⟩ : i' = i ∧ r' = r ∧ m' / 8 = c ∧ m' % 8 = m := by simpa using h
        refine ⟨hi, hr, by omega, by omega, ?_⟩
        rw [rowIndex, Nat.add_assoc _ (8 * _), Nat.div_add_mod]
        rfl
      · simp at h
    · simp [position_blankIndex] at h
    · simp [position_of_blankIndex_lt hk] at h

end Sys2Proof.Machine
end

section
/-! What a trace counts (R147, R148, R203): the same number in every row. -/

namespace Sys2Proof.Machine

theorem rowShift_filter_length {s : State} {t r n : Nat} {p : Event → Bool}
    (h : ∀ c, ((columnEvents s t r c).filter p).length = n) : ((rowShift s t r).filter p).length = 64 * n := by
  rw [rowShift, List.filter_flatMap]
  exact flatMap_range_length _ h 64

/-- If every row has `n` events of a kind, the trace has COUNT*R*n of them, and the final blank. -/
theorem scanTrace_filter_length {s : State} {n : Nat} {p : Event → Bool}
    (h : ∀ t r, ((rowShift s t r ++ rowTail s.cfg r).filter p).length = n) :
    ((scanTrace s).filter p).length =
      s.countReg.toNat * s.cfg.variant.rows * n + ([Event.drive .oe true].filter p).length := by
  have hframe (i : Nat) : ((subFrame s i).filter p).length = s.cfg.variant.rows * n := by
    rw [subFrame, List.filter_flatMap]
    exact flatMap_range_length _ (h _) _
  rw [scanTrace, List.filter_append, List.length_append, List.filter_flatMap, flatMap_range_length _ hframe,
    Nat.mul_assoc]

@[simp] theorem isDrive_drive (l : Line) (v : Level) : (Event.drive l v).isDrive = true := rfl
@[simp] theorem isDrive_wait (us : Nat) : (Event.wait us).isDrive = false := rfl
@[simp] theorem waitUs_drive (l : Line) (v : Level) : (Event.drive l v).waitUs = 0 := rfl
@[simp] theorem waitUs_wait (us : Nat) : (Event.wait us).waitUs = us := rfl

theorem rowTail_drives_length (cfg : Config) (r : Nat) :
    ((rowTail cfg r).filter Event.isDrive).length = 4 + cfg.variant.naddr := by
  rw [rowTail]
  cases cfg.variant <;> rfl

theorem rowTail_waits_length (cfg : Config) (r : Nat) :
    ((rowTail cfg r).filter fun e => !e.isDrive).length = 3 := by
  rw [rowTail]
  cases cfg.variant <;> rfl

theorem rowTail_pulses_length (cfg : Config) (r : Nat) :
    ((rowTail cfg r).filter fun e => decide (e = .drive .clk true)).length = 0 := by
  rw [rowTail]
  cases cfg.variant <;> rfl

theorem possible_of_mem_rowTail (cfg : Config) (r : Nat) : ∀ e ∈ rowTail cfg r, e.Possible cfg := by
  cases hv : cfg.variant <;> simp [rowTail, addressEvents, Event.Possible, Line.exists, hv]

theorem possible_of_mem_columnEvents (s : State) (t r c : Nat) : ∀ e ∈ columnEvents s t r c, e.Possible s.cfg := by
  simp [columnEvents, Event.Possible, Line.exists]

/-- A trace's event is a drive of a line the build has, or a wait of DELAY_US. -/
theorem possible_of_mem_scanTrace {s : State} {e : Event} (h : e ∈ scanTrace s) : e.Possible s.cfg := by
  obtain ⟨i, -, r, -, hshift | htail⟩ | rfl := mem_scanTrace_iff.mp h
  · obtain ⟨c, -, hc⟩ := List.mem_flatMap.mp hshift
    exact possible_of_mem_columnEvents s _ r c e hc
  · exact possible_of_mem_rowTail s.cfg r e htail
  · rfl

/-- Waits of one length sum to their number times it; drives have none (R203). -/
theorem sum_waitUs_of_possible {cfg : Config} {es : List Event} (h : ∀ e ∈ es, e.Possible cfg) :
    (es.map Event.waitUs).sum = (es.filter fun e => !e.isDrive).length * cfg.delayUs := by
  induction es with
  | nil => simp
  | cons e rest ih =>
    obtain ⟨he, hrest⟩ := List.forall_mem_cons.mp h
    rw [List.map_cons, List.sum_cons, ih hrest]
    cases e with
    | drive l v => simp
    | wait us =>
      cases he
      simp [Nat.add_mul, Nat.add_comm]

/-- Settles O41: each count is one of a row (`scanTrace_filter_length`); the waits are of DELAY_US each
(`sum_waitUs_of_possible`). -/
theorem traceCounts : Obligations.TraceCounts := by
  intro s
  have hdrives := scanTrace_filter_length (s := s) (p := Event.isDrive) (n := 516 + s.cfg.variant.naddr) fun t r => by
    rw [List.filter_append, List.length_append, rowTail_drives_length, rowShift_filter_length (n := 8) fun _ => rfl]
    omega
  have hwaits : ((scanTrace s).filter fun e => !e.isDrive).length = 3 * s.countReg.toNat * s.cfg.variant.rows := by
    rw [scanTrace_filter_length (n := 3) fun t r => by
      rw [List.filter_append, List.length_append, rowTail_waits_length, rowShift_filter_length (n := 0) fun _ => rfl]]
    change s.countReg.toNat * s.cfg.variant.rows * 3 + 0 = _
    ring
  have hpulses : ((scanTrace s).filter fun e => decide (e = .drive .clk true)).length =
      64 * s.countReg.toNat * s.cfg.variant.rows := by
    rw [scanTrace_filter_length (n := 64) fun t r => by
      rw [List.filter_append, List.length_append, rowTail_pulses_length, rowShift_filter_length (n := 1) fun _ => rfl]]
    change s.countReg.toNat * s.cfg.variant.rows * 64 + 0 = _
    ring
  refine ⟨scanTrace_length s, hdrives, hwaits, hpulses, ?_⟩
  rw [sum_waitUs_of_possible fun e => possible_of_mem_scanTrace, hwaits]

end Sys2Proof.Machine
end

section
/-! Blanking (R138, R139): where a row unblanks, and what its tail drives before that. -/

namespace Sys2Proof.Machine

theorem rowIndex_add (s : State) (i r m n : Nat) : rowIndex s i r m + n = rowIndex s i r (m + n) :=
  Nat.add_assoc _ m n

theorem scanTrace_getElem?_rowIndex (s : State) {i r m : Nat} (hi : i < s.countReg.toNat)
    (hr : r < s.cfg.variant.rows) (hm : m < rowLength s.cfg.variant) :
    (scanTrace s)[rowIndex s i r m]? = (rowShift s (threshold s.stepReg i) r ++ rowTail s.cfg r)[m]? :=
  scanTrace_getElem?_row s hi hr hm

theorem scanTrace_getElem?_tail (s : State) {i r m : Nat} (hi : i < s.countReg.toNat)
    (hr : r < s.cfg.variant.rows) (hm : m < 7 + s.cfg.variant.naddr) :
    (scanTrace s)[rowIndex s i r (512 + m)]? = (rowTail s.cfg r)[m]? := by
  rw [← scanTrace_getElem?_rowTail s hi hr hm, Nat.add_assoc]
  rfl

theorem scanTrace_getElem?_blankIndex (s : State) : (scanTrace s)[blankIndex s]? = some (.drive .oe true) := by
  rw [← eventAt_eq_getElem?, eventAt, position_blankIndex]
  rfl

theorem scanTrace_getElem?_of_blankIndex_lt {s : State} {k : Nat} (hk : blankIndex s < k) :
    (scanTrace s)[k]? = none := by
  rw [← eventAt_eq_getElem?, eventAt, position_of_blankIndex_lt hk]
  rfl

/-- Between the blank and the unblank a row tail drives LAT and address lines only. -/
theorem rowTail_line_inner {cfg : Config} {r m : Nat} (h0 : 0 < m) (hm : m < 6 + cfg.variant.naddr) {l : Line}
    {v : Level} (h : (rowTail cfg r)[m]? = some (.drive l v)) : l ∈ [.lat, .a, .b, .c, .d, .f] := by
  cases hv : cfg.variant
  all_goals
    rw [hv] at hm
    simp only [rowTail, addressEvents, hv] at h
    simp only [Variant.naddr] at hm
    interval_cases m <;> simp at h <;> simp [← h.1]

/-- A drive of a line that no column drives stands in a row's tail, or is the final blank. -/
theorem drive_cases {s : State} {k : Nat} {l : Line} {v : Level} (h : (scanTrace s)[k]? = some (.drive l v)) :
    (l ∈ [.r1, .g1, .b1, .r2, .g2, .b2, .clk]) ∨
    (∃ i r m, i < s.countReg.toNat ∧ r < s.cfg.variant.rows ∧ m < 7 + s.cfg.variant.naddr ∧
      k = rowIndex s i r (512 + m) ∧ (rowTail s.cfg r)[m]? = some (.drive l v)) ∨
    (k = blankIndex s ∧ l = .oe ∧ v = true) := by
  obtain ⟨i, r, m, hi, hr, hm, rfl⟩ | rfl | hk := index_cases s k
  · rw [scanTrace_getElem?_rowIndex s hi hr hm] at h
    by_cases hcol : m < 512
    · rw [List.getElem?_append_left (by simpa using hcol)] at h
      exact .inl (line_of_drive_mem_rowShift (List.mem_of_getElem? h))
    · rw [List.getElem?_append_right (by simpa using hcol), rowShift_length] at h
      rw [rowLength_eq] at hm
      exact .inr (.inl ⟨i, r, m - 512, hi, hr, by omega, by rw [Nat.add_sub_cancel' (by omega)], h⟩)
  · rw [scanTrace_getElem?_blankIndex] at h
    cases h
    exact .inr (.inr ⟨rfl, rfl, rfl⟩)
  · simp [scanTrace_getElem?_of_blankIndex_lt hk] at h

/-- The unblank is a row tail's last event. -/
theorem rowTail_eq_unblank_iff {cfg : Config} {r m : Nat} (hm : m < 7 + cfg.variant.naddr) :
    (rowTail cfg r)[m]? = some (.drive .oe false) ↔ m = 6 + cfg.variant.naddr := by
  constructor
  · intro h
    by_contra hne
    obtain rfl | h0 := Nat.eq_zero_or_pos m
    · simp [rowTail] at h
    · exact absurd (rowTail_line_inner h0 (by omega) h) (by decide)
  · rintro rfl
    exact rowTail_getElem?_unblank cfg r

/-- The unblanks of the trace: one in each row of each sub-frame, its last event. -/
theorem scanTrace_eq_unblank_iff {s : State} {k : Nat} :
    (scanTrace s)[k]? = some (.drive .oe false) ↔
      ∃ i r, i < s.countReg.toNat ∧ r < s.cfg.variant.rows ∧ k = rowIndex s i r (512 + (6 + s.cfg.variant.naddr)) := by
  constructor
  · intro h
    obtain hcol | ⟨i, r, m, hi, hr, hm, rfl, htail⟩ | ⟨_, _, hv⟩ := drive_cases h
    · exact absurd hcol (by decide)
    · exact ⟨i, r, hi, hr, by rw [(rowTail_eq_unblank_iff hm).mp htail]⟩
    · cases hv
  · rintro ⟨i, r, hi, hr, rfl⟩
    rw [scanTrace_getElem?_tail s hi hr (by omega)]
    exact rowTail_getElem?_unblank s.cfg r

theorem rowIndex_last_succ (s : State) (i r : Nat) :
    rowIndex s i r (512 + (6 + s.cfg.variant.naddr)) + 1 =
      (i * s.cfg.variant.rows + r + 1) * rowLength s.cfg.variant := by
  rw [rowIndex, Nat.succ_mul, rowLength_eq]
  omega

/-- Settles O46: the unblanks are the rows' last events (`scanTrace_eq_unblank_iff`), and each tail pulses LAT at its
third and fifth event. -/
theorem unblankOncePerRow : Obligations.UnblankOncePerRow := by
  refine fun s k => ⟨⟨fun h => ?_, fun ⟨q, hq, hk⟩ => ?_⟩, fun h => ?_⟩
  · obtain ⟨i, r, hi, hr, rfl⟩ := scanTrace_eq_unblank_iff.mp h
    exact ⟨i * s.cfg.variant.rows + r, row_lt_rowCount hi hr, rowIndex_last_succ s i r⟩
  · refine scanTrace_eq_unblank_iff.mpr ⟨q / s.cfg.variant.rows, q % s.cfg.variant.rows,
      (Nat.div_lt_iff_lt_mul (rows_pos _)).mpr hq, Nat.mod_lt _ (rows_pos _), ?_⟩
    have hlast := rowIndex_last_succ s (q / s.cfg.variant.rows) (q % s.cfg.variant.rows)
    rw [Nat.div_add_mod', ← hk] at hlast
    exact (Nat.succ.inj hlast).symm
  · obtain ⟨i, r, hi, hr, rfl⟩ := scanTrace_eq_unblank_iff.mp h
    have hnaddr := naddr_le s.cfg.variant
    refine ⟨rowIndex s i r (512 + 2), ?_, ?_, ?_, ?_⟩
    · exact Nat.add_lt_add_left (by omega) _
    · rw [rowIndex_add]
      exact Nat.add_lt_add_left (by omega) _
    · rw [scanTrace_getElem?_tail s hi hr (by omega)]
      rfl
    · rw [rowIndex_add, Nat.add_assoc, scanTrace_getElem?_tail s hi hr (by omega)]
      rfl

/-- Settles O47: an address or latch drive stands inside a row's tail (`drive_cases`), which begins with the blank and
up to there drives LAT and address lines only (`rowTail_line_inner`). -/
theorem addressChangesOnlyWhileBlanked : Obligations.AddressChangesOnlyWhileBlanked := by
  intro s k l v hl h
  obtain hcol | ⟨i, r, m, hi, hr, hm, rfl, htail⟩ | ⟨_, rfl, _⟩ := drive_cases h
  · exfalso
    revert hl hcol
    cases l <;> decide
  · have hpos : 0 < m := by
      obtain rfl | hpos := Nat.eq_zero_or_pos m
      · cases htail
        simp at hl
      · exact hpos
    have hlast : m ≠ 6 + s.cfg.variant.naddr := by
      rintro rfl
      rw [rowTail_getElem?_unblank] at htail
      cases htail
      simp at hl
    refine ⟨rowIndex s i r 512, Nat.add_lt_add_left (by omega) _, ?_, fun n hn hnk l' v' h' => ?_⟩
    · rw [← Nat.add_zero 512, scanTrace_getElem?_tail s hi hr (by omega)]
      rfl
    · obtain ⟨n, rfl⟩ := Nat.exists_eq_add_of_lt hn
      rw [Nat.add_assoc, rowIndex_add] at h' hnk
      have hnm : n + 1 < m := by simpa [rowIndex] using hnk
      rw [scanTrace_getElem?_tail s hi hr (by omega)] at h'
      have hl' := rowTail_line_inner (Nat.succ_pos n) (by omega) h'
      revert hl'
      cases l' <;> decide
  · simp at hl

end Sys2Proof.Machine
end

section
/-! What a sequencer step leaves as it is (R30, R144, R145), as one equation, and its four answers. -/

namespace Sys2Proof.Machine

theorem advance_eq (k : Nat) (s : State) :
    s.advance k = { s with seq := if k + 1 = traceLength s then .idle else .running (k + 1)
                           err := if k + 1 = traceLength s then .none else s.err } := by
  unfold State.advance
  split <;> rfl

/-- Only SEQ, ERR, the port's inputs and the record of requests can move. -/
def SequencerFrame (s t : State) : Prop :=
  t = { s with seq := t.seq, err := t.err, lineScript := t.lineScript, delayScript := t.delayScript, draws := t.draws
               outstanding := t.outstanding, record := t.record }

/-- What follows an answered drive, unless the failure policy ends the OUTPUT: the index advances (R144, R145). -/
theorem afterDrive_of_continues {s : State} {answer : Answer} (h : answer = .ok ∨ s.cfg.policy = .bestEffort)
    (k : Nat) (l : Line) (v : Level) :
    afterDrive k l v answer s = (s.takeLine.log (.drive l v answer)).advance k := by
  obtain rfl | hp := h
  · rfl
  · cases answer <;> simp [afterDrive, hp]

theorem continues_or_fails (answer : Answer) (policy : FailPolicy) :
    (answer = .ok ∨ policy = .bestEffort) ∨ (answer = .fail ∧ policy = .propagate) := by
  cases answer <;> cases policy <;> simp

theorem afterDrive_frame (k : Nat) (l : Line) (v : Level) (answer : Answer) (s : State) :
    SequencerFrame s (afterDrive k l v answer s) := by
  obtain h | ⟨rfl, hp⟩ := continues_or_fails answer s.cfg.policy
  · rw [afterDrive_of_continues h, advance_eq]
    rfl
  · rw [afterDrive_of_fail hp]
    rfl

theorem seqStep_frame {k : Nat} {s t : State} (h : seqStep k s = .next t) : SequencerFrame s t := by
  obtain ⟨_, _, _, _, rfl⟩ | ⟨_, _, _, _, _, rfl⟩ | ⟨_, _, _, rfl⟩ | ⟨_, _, _, rfl⟩ := seqStep_cases h
  · rfl
  · exact afterDrive_frame ..
  · rfl
  · rw [afterWait, advance_eq]
    rfl

theorem seqStep_of_noAnswer {s : State} {k : Nat} {l : Line} {v : Level} (he : eventAt s k = some (.drive l v))
    (hr : s.lineReply = none) : seqStep k s = .next (s.takeLine.await (.drive l v)) := by
  simp [seqStep, he, hr]

theorem seqStep_of_pending {s : State} {k us : Nat} (he : eventAt s k = some (.wait us))
    (hr : s.delayReply = .pending) : seqStep k s = .next (s.takeDelay.await (.wait us)) := by
  simp [seqStep, he, hr]

theorem seqStep_of_done {s : State} {k us : Nat} (he : eventAt s k = some (.wait us)) (hr : s.delayReply = .done) :
    seqStep k s = .next (afterWait k us s) := by
  simp [seqStep, he, hr]

theorem busy_iff {s : State} : s.busy = true ↔ ∃ k, s.seq = .running k := by
  cases hs : s.seq <;> simp [State.busy, Seq.busy, hs]

theorem not_busy_iff {s : State} : s.busy = false ↔ s.seq = .idle := by
  cases hs : s.seq <;> simp [State.busy, Seq.busy, hs]

/-- A BUSY step without a reset is the sequencer's. -/
theorem step_of_busy {s : State} (hrst : s.rst = false) (hbusy : s.busy = true) :
    ∃ k, s.seq = .running k ∧ step s = seqStep k s.hold := by
  obtain ⟨k, hk⟩ := busy_iff.mp hbusy
  exact ⟨k, hk, step_of_running hrst hk⟩

/-- Settles O50: a BUSY step is the sequencer's, which leaves FB and the registers as they are (`seqStep_frame`), and so
the trace (`scanTrace_congr`). -/
theorem traceIsFixedWhileBusy : Obligations.TraceIsFixedWhileBusy := by
  refine ⟨fun s t h hrst hbusy => ?_, fun s t hfb hstep hcount hcfg =>
    (scanTrace_congr hfb.symm hstep.symm hcount.symm hcfg.symm).symm⟩
  obtain ⟨k, _, he⟩ := step_of_busy hrst hbusy
  have hframe : SequencerFrame s.hold t := seqStep_frame (he.symm.trans h)
  have hfb : t.fb = s.fb := (congrArg State.fb hframe).trans (hold_fb s)
  have hstep : t.stepReg = s.stepReg := (congrArg State.stepReg hframe).trans (hold_stepReg s)
  have hcount : t.countReg = s.countReg := (congrArg State.countReg hframe).trans (hold_countReg s)
  exact ⟨hfb, (congrArg State.bb hframe).trans (hold_bb s), hstep, hcount,
    (congrArg State.resp hframe).trans (hold_resp s), (congrArg State.configured hframe).trans (hold_configured s),
    (congrArg State.faulted hframe).trans (hold_faulted s), scanTrace_congr hfb hstep hcount (step_cfg h)⟩

end Sys2Proof.Machine
end

section
/-! The command port (R22, R23): what an offer does to an idle and to a BUSY block. -/

namespace Sys2Proof.Machine

/-- Settles O8: `step_of_command` and `driveNext_eq`. -/
theorem stepRunsDecodedCommand : Obligations.StepRunsDecodedCommand :=
  fun s _ hrst hseq hvalid hd => ⟨step_of_command hrst hseq hvalid hd, driveNext_eq s⟩

theorem advance_withCmd (k : Nat) (s : State) (w : Word) :
    State.advance k { s with cmd := w } = { s.advance k with cmd := w } := by
  rw [advance_eq, advance_eq]
  rfl

theorem afterDrive_withCmd (k : Nat) (l : Line) (v : Level) (answer : Answer) (s : State) (w : Word) :
    afterDrive k l v answer { s with cmd := w } = { afterDrive k l v answer s with cmd := w } := by
  obtain h | ⟨rfl, hp⟩ := continues_or_fails answer s.cfg.policy
  · rw [afterDrive_of_continues h, afterDrive_of_continues (s := { s with cmd := w }) h]
    exact advance_withCmd k (s.takeLine.log (.drive l v answer)) w
  · rw [afterDrive_of_fail hp, afterDrive_of_fail (s := { s with cmd := w }) hp]
    rfl

/-- The sequencer does not read CMD. -/
theorem seqStep_withCmd {k : Nat} {s t : State} (h : seqStep k s = .next t) (w : Word) :
    seqStep k { s with cmd := w } = .next { t with cmd := w } := by
  obtain ⟨l, v, he, hr, rfl⟩ | ⟨l, v, answer, he, hr, rfl⟩ | ⟨us, he, hr, rfl⟩ | ⟨us, he, hr, rfl⟩ := seqStep_cases h
  · exact seqStep_of_noAnswer he hr
  · rw [← afterDrive_withCmd]
    exact seqStep_of_answer he hr
  · exact seqStep_of_pending he hr
  · rw [afterWait, ← advance_withCmd]
    exact seqStep_of_done he hr

/-- With no word offered an idle block moves the host's pins only. -/
theorem step_of_quiet {s : State} (hrst : s.rst = false) (hseq : s.seq = .idle) (hvalid : s.cmdValid = false) :
    step s = .next s.driveNext := by
  simp [step, hrst, hseq, State.accepts, hvalid]

/-- Of the commands that succeed OUTPUT alone moves SEQ, and every other one sets ERR to NONE (R24, R130). -/
theorem Succeeds.seq_and_err {s t : State} {i : Instr} (hi : i ≠ .output) (h : Succeeds s t i) :
    t.seq = s.seq ∧ t.err = .none := by
  cases i with
  | output => exact absurd rfl hi
  | geom =>
    cases h
    exact ⟨rfl, rfl⟩
  | init | clear =>
    obtain ⟨_, rfl⟩ := h
    exact ⟨rfl, rfl⟩
  | wrpix | rdcell =>
    obtain ⟨_, _, rfl⟩ := h
    exact ⟨rfl, rfl⟩

theorem exec_seq {i : Instr} {s t : State} (hi : i ≠ .output) (h : exec i s = .next t) : t.seq = s.seq := by
  obtain ⟨_, he⟩ | ⟨_, code, _, he⟩ | ⟨_, u, he, hu⟩ := exec_cases i s
  · cases he.symm.trans h
    rfl
  · cases he.symm.trans h
    rfl
  · cases he.symm.trans h
    exact (hu.seq_and_err hi).1

theorem exec_answers (i : Instr) (s : State) : ∃ t, exec i s = .next t := by
  obtain ⟨_, he⟩ | ⟨_, _, _, he⟩ | ⟨_, u, he, _⟩ := exec_cases i s
  · exact ⟨_, he⟩
  · exact ⟨_, he⟩
  · exact ⟨u, he⟩

theorem idle_of_cmdReady {s : State} (h : s.cmdReady = true) : s.seq = .idle := by
  rw [← not_busy_iff]
  simpa [State.cmdReady] using h

/-- Settles O10: a BUSY step is the sequencer's, which does not read CMD (`seqStep_withCmd`), with the offer held; an
idle block accepts, and only OUTPUT makes it BUSY (`exec_seq`). -/
theorem offerIsHeldWhileBusy : Obligations.OfferIsHeldWhileBusy := by
  refine ⟨fun _ => rfl, fun s t w hrst hbusy hvalid h => ?_, fun s hrst hready hvalid => ?_,
    fun s i hrst hready hvalid hd hi => ?_⟩
  · obtain ⟨k, hk, he⟩ := step_of_busy hrst hbusy
    rw [hold_of_offer hvalid] at he
    have hseqStep := he.symm.trans h
    have hframe : SequencerFrame s.driveRst t := seqStep_frame hseqStep
    refine ⟨(congrArg State.cmd hframe).trans rfl, (congrArg State.cmdValid hframe).trans hvalid,
      (congrArg State.host hframe).trans rfl, ?_⟩
    have hstep := step_of_running (s := { s with cmd := w }) hrst hk
    rw [hold_of_offer (s := { s with cmd := w }) hvalid] at hstep
    exact hstep.trans (seqStep_withCmd hseqStep w)
  · exact step_of_quiet hrst (idle_of_cmdReady hready) hvalid
  · have hidle := idle_of_cmdReady hready
    obtain ⟨t, ht⟩ := exec_answers i s.driveNext
    exact ⟨t, (step_of_command hrst hidle hvalid hd).trans ht,
      cmdReady_of_idle ((exec_seq hi ht).trans ((driveNext_seq s).trans hidle))⟩

/-- Settles O16: OUTPUT's answer is `exec_of_succeeds`; the event at index 0 is the trace's (`eventAt_eq_getElem?`). -/
theorem outputStartsTheSequencer : Obligations.OutputStartsTheSequencer := by
  refine fun s hf => ⟨fun hc => ?_, fun hc => exec_of_notConfigured hf hc nofun nofun⟩
  exact ⟨_, exec_of_succeeds (i := .output) hf ⟨hc, rfl⟩, rfl, rfl, rfl, eventAt_eq_getElem? s 0⟩

end Sys2Proof.Machine
end

section
/-! What a step answers, by what it leaves (R23, R174, R175, R190). -/

namespace Sys2Proof.Machine

/-- The state after a step is that of a reset or of the sequencer; or an idle block's, which is the host's move alone, a
fatal error, or the success of the command offered. -/
theorem step_outcomes {s t : State} (h : step s = .next t) :
    (s.rst = true ∧ t = s.resetBlock.hold) ∨
    (s.rst = false ∧ ∃ k, s.seq = .running k ∧ seqStep k s.hold = .next t) ∨
    (s.rst = false ∧ s.seq = .idle ∧ t = s.driveNext) ∨
    (s.rst = false ∧ s.seq = .idle ∧ s.cmdValid = true ∧ s.faulted = false ∧
      ∃ code : Err, code.fatal = true ∧ t = s.driveNext.raiseFatal code) ∨
    (s.rst = false ∧ s.seq = .idle ∧ s.cmdValid = true ∧ s.faulted = false ∧
      ∃ i, decode s.cmd = .command i ∧ Succeeds s.driveNext t i) := by
  obtain ⟨hrst, he⟩ | ⟨hrst, k, hseq, he⟩ | ⟨hrst, hseq, hvalid, i, hd, he⟩ | ⟨hrst, hseq, hvalid, _, _, he⟩ |
    ⟨hrst, hseq, _, he⟩ := step_cases s
  · cases he.symm.trans h
    exact .inl ⟨hrst, rfl⟩
  · exact .inr (.inl ⟨hrst, k, hseq, he.symm.trans h⟩)
  · obtain ⟨_, hx⟩ | ⟨hf, code, hcode, hx⟩ | ⟨hf, u, hx, hu⟩ := exec_cases i s.driveNext
    · cases (he.trans hx).symm.trans h
      exact .inr (.inr (.inl ⟨hrst, hseq, rfl⟩))
    · cases (he.trans hx).symm.trans h
      exact .inr (.inr (.inr (.inl ⟨hrst, hseq, hvalid, by simpa using hf, code, hcode, rfl⟩)))
    · cases (he.trans hx).symm.trans h
      exact .inr (.inr (.inr (.inr ⟨hrst, hseq, hvalid, by simpa using hf, i, hd, hu⟩)))
  · obtain ⟨_, hx⟩ | ⟨hf, hx⟩ := acceptIllegal_cases s.driveNext
    · cases (he.trans hx).symm.trans h
      exact .inr (.inr (.inl ⟨hrst, hseq, rfl⟩))
    · cases (he.trans hx).symm.trans h
      exact .inr (.inr (.inr (.inl ⟨hrst, hseq, hvalid, by simpa using hf, .illegalCommand, rfl, rfl⟩)))
  · cases he.symm.trans h
    exact .inr (.inr (.inl ⟨hrst, hseq, rfl⟩))

end Sys2Proof.Machine
end

section
/-! The configuration (R26, R37): INIT alone writes it, and before INIT nothing reads it. -/

namespace Sys2Proof.Machine

/-- CONFIGURED, `bb`, STEP and COUNT are the same in both states. -/
def SameConfiguration (s t : State) : Prop :=
  t.configured = s.configured ∧ t.bb = s.bb ∧ t.stepReg = s.stepReg ∧ t.countReg = s.countReg

theorem SequencerFrame.sameConfiguration {s t : State} (h : SequencerFrame s t) : SameConfiguration s t := by
  rw [SequencerFrame] at h
  rw [h]
  exact ⟨rfl, rfl, rfl, rfl⟩

theorem SameBlock.sameConfiguration {s t : State} (h : SameBlock s t) : SameConfiguration s t :=
  ⟨h.configured, h.bb, h.stepReg, h.countReg⟩

theorem SameConfiguration.trans {s t u : State} (h : SameConfiguration s t) (h' : SameConfiguration t u) :
    SameConfiguration s u := by
  obtain ⟨hc, hbb, hstep, hcount⟩ := h
  obtain ⟨hc', hbb', hstep', hcount'⟩ := h'
  exact ⟨hc'.trans hc, hbb'.trans hbb, hstep'.trans hstep, hcount'.trans hcount⟩

/-- Of the commands that succeed INIT alone writes the configuration. -/
theorem Succeeds.sameConfiguration_or_init {s t : State} {i : Instr} (h : Succeeds s t i) :
    SameConfiguration s t ∨ ∃ bb, i = .init bb := by
  cases i with
  | init bb => exact .inr ⟨bb, rfl⟩
  | geom =>
    cases h
    exact .inl ⟨rfl, rfl, rfl, rfl⟩
  | clear | output =>
    obtain ⟨_, rfl⟩ := h
    exact .inl ⟨rfl, rfl, rfl, rfl⟩
  | wrpix | rdcell =>
    obtain ⟨_, _, rfl⟩ := h
    exact .inl ⟨rfl, rfl, rfl, rfl⟩

/-- A step without a reset keeps the configuration, or accepts an INIT that succeeds. -/
theorem step_sameConfiguration_or_init {s t : State} (h : step s = .next t) (hrst : s.rst = false) :
    SameConfiguration s t ∨ s.seq = .idle ∧ s.cmdValid = true ∧
      ∃ bb, decode s.cmd = .command (.init bb) ∧ Succeeds s.driveNext t (.init bb) := by
  have hpins := (driveNext_sameBlock s).sameConfiguration
  obtain ⟨hr, _⟩ | ⟨_, k, _, he⟩ | ⟨_, _, rfl⟩ | ⟨_, _, _, _, code, _, rfl⟩ | ⟨_, hseq, hvalid, _, i, hd, hi⟩ :=
    step_outcomes h
  · simp [hrst] at hr
  · exact .inl ((hold_sameBlock s).sameConfiguration.trans (seqStep_frame he).sameConfiguration)
  · exact .inl hpins
  · exact .inl hpins
  · obtain hsame | ⟨bb, rfl⟩ := hi.sameConfiguration_or_init
    · exact .inl (hpins.trans hsame)
    · exact .inr ⟨hseq, hvalid, bb, hd, hi⟩

/-- Settles O30: a step that changes the configuration accepts an INIT that succeeds
(`step_sameConfiguration_or_init`), which writes the four values. -/
theorem configurationIsWrittenByInitOnly : Obligations.ConfigurationIsWrittenByInitOnly := by
  intro s t h hrst hne
  obtain ⟨hc, hbb, hstep, hcount⟩ | ⟨hseq, hvalid, bb, hd, hbb, rfl⟩ := step_sameConfiguration_or_init h hrst
  · simp [hc, hbb, hstep, hcount] at hne
  · obtain ⟨hb1, hb8⟩ := outOfDepth_eq_false_iff.mp hbb
    exact ⟨hseq, hvalid, bb, hd, hb1, hb8, rfl, rfl, stepOf_toNat hb1, countOf_toNat hb8⟩

/-- The state with other values in the fields that R37 leaves unspecified before INIT. -/
def State.withUnspecified (bb : BitVec 4) (st ct : Byte) (fb : Memory) (s : State) : State :=
  { s with bb := bb, stepReg := st, countReg := ct, fb := fb }

section
variable {s t : State} {bb : BitVec 4} {st ct : Byte} {fb : Memory}

theorem driveNext_withUnspecified :
    (s.withUnspecified bb st ct fb).driveNext = s.driveNext.withUnspecified bb st ct fb := by
  cases hh : s.host with
  | nil => simp [State.driveNext, State.driveCmd, State.driveRst, State.withUnspecified, hh]
  | cons d rest => cases d <;> simp [State.driveNext, State.driveCmd, State.driveRst, State.withUnspecified, hh]

/-- Before INIT the unspecified values are not in STATUS: its BB field is 0 (R24). -/
theorem statusWord_withUnspecified (hc : s.configured = false) :
    statusWord (s.withUnspecified bb st ct fb) = statusWord s := by
  simp [statusWord, State.bbStatus, State.busy, State.withUnspecified, hc]

/-- In an unconfigured block a command answers the same state whatever the unspecified values are, with them or without
them (INIT writes them all). -/
theorem exec_withUnspecified {i : Instr} (hc : s.configured = false) (h : exec i s = .next t) :
    exec i (s.withUnspecified bb st ct fb) = .next t ∨
      t.configured = false ∧ exec i (s.withUnspecified bb st ct fb) = .next (t.withUnspecified bb st ct fb) := by
  by_cases hf : s.faulted = true
  · cases (exec_of_faulted hf).symm.trans h
    exact .inr ⟨hc, exec_of_faulted hf⟩
  have hf' : s.faulted = false := by simpa using hf
  by_cases hplain : (∀ bb, i ≠ .init bb) ∧ i ≠ .geom
  · obtain ⟨hinit, hgeom⟩ := hplain
    cases (exec_of_notConfigured hf' hc hinit hgeom).symm.trans h
    exact .inr ⟨hc, exec_of_notConfigured (s := s.withUnspecified bb st ct fb) hf' hc hinit hgeom⟩
  cases i with
  | init depth =>
    cases hdepth : outOfDepth depth with
    | true =>
      cases (exec_init_of_outOfDepth hf' hdepth).symm.trans h
      exact .inr ⟨hc, exec_init_of_outOfDepth (s := s.withUnspecified bb st ct fb) hf' hdepth⟩
    | false =>
      cases (exec_of_succeeds (i := .init depth) hf' ⟨hdepth, rfl⟩).symm.trans h
      exact .inl (exec_of_succeeds (s := s.withUnspecified bb st ct fb) (i := .init depth) hf' ⟨hdepth, rfl⟩)
  | geom =>
    cases (exec_of_succeeds (i := .geom) hf' rfl).symm.trans h
    exact .inr ⟨hc, exec_of_succeeds (s := s.withUnspecified bb st ct fb) (i := .geom) hf' rfl⟩
  | _ => simp at hplain

/-- The same of a step of an idle block. -/
theorem step_withUnspecified (hc : s.configured = false) (hseq : s.seq = .idle) (h : step s = .next t) :
    step (s.withUnspecified bb st ct fb) = .next t ∨
      t.configured = false ∧ step (s.withUnspecified bb st ct fb) = .next (t.withUnspecified bb st ct fb) := by
  have hc' : s.driveNext.configured = false := (driveNext_configured s).trans hc
  obtain ⟨hrst, he⟩ | ⟨_, _, hrun, _⟩ | ⟨hrst, _, hvalid, i, hd, he⟩ | ⟨hrst, _, hvalid, why, hd, he⟩ |
    ⟨hrst, _, hvalid, he⟩ := step_cases s
  · exact .inl ((step_of_rst (s := s.withUnspecified bb st ct fb) hrst).trans (he.symm.trans h))
  · simp [hseq] at hrun
  · have he' := step_of_command (s := s.withUnspecified bb st ct fb) hrst hseq hvalid hd
    rw [driveNext_withUnspecified] at he'
    rw [he']
    exact exec_withUnspecified hc' (he.symm.trans h)
  · have he' := step_of_illegal (s := s.withUnspecified bb st ct fb) hrst hseq hvalid hd
    rw [driveNext_withUnspecified] at he'
    rw [he']
    obtain ⟨hf, hx⟩ | ⟨hf, hx⟩ := acceptIllegal_cases s.driveNext
    · cases (he.trans hx).symm.trans h
      exact .inr ⟨hc', acceptIllegal_of_faulted hf⟩
    · cases (he.trans hx).symm.trans h
      exact .inr ⟨hc', acceptIllegal_of_notFaulted hf⟩
  · have he' := step_of_quiet (s := s.withUnspecified bb st ct fb) hrst hseq hvalid
    rw [driveNext_withUnspecified] at he'
    cases he.symm.trans h
    exact .inr ⟨hc', he'⟩

end

/-- Settles O31: `step_withUnspecified`, and STATUS does not show the unspecified values
(`statusWord_withUnspecified`). -/
theorem unconfiguredValuesAreNotRead : Obligations.UnconfiguredValuesAreNotRead := by
  intro s t bb st ct fb hc hseq h
  obtain he | ⟨hct, he⟩ := step_withUnspecified (bb := bb) (st := st) (ct := ct) (fb := fb) hc hseq h
  · exact ⟨t, he, .inl rfl, rfl⟩
  · exact ⟨_, he, .inr rfl, statusWord_withUnspecified hct⟩

end Sys2Proof.Machine
end

section
/-! The requests issued and the levels of the lines (R33 to R35, R190, R204), as a step leaves them. -/

namespace Sys2Proof.Machine

/-- A reset puts the request that is out on the record, so that the requests issued stay the same (log 13). -/
theorem abandoned_reverse (s : State) : s.abandoned.reverse = s.issued := by
  cases ho : s.outstanding <;> simp [State.abandoned, State.issued, ho]

theorem issued_of_outstanding_none {s : State} (h : s.outstanding = none) : s.issued = s.record.reverse := by
  simp [State.issued, h]

theorem issued_of_outstanding_some {s : State} {e : Event} (h : s.outstanding = some e) :
    s.issued = s.record.reverse ++ [.unanswered e] := by
  simp [State.issued, h]

/-- A request that nobody answered gives its line no level (log 14). -/
theorem levelIn_abandoned (l : Line) (s : State) : levelIn l s.abandoned = s.lineLevel l := by
  cases ho : s.outstanding <;> simp [State.abandoned, State.lineLevel, levelIn, ho]

/-- What is not the block's: the ports' inputs, the requests issued, and the lines' levels. -/
structure SameOutside (s t : State) : Prop where
  issued : t.issued = s.issued
  lineScript : t.lineScript = s.lineScript
  delayScript : t.delayScript = s.delayScript
  draws : t.draws = s.draws
  level : ∀ l, t.lineLevel l = s.lineLevel l

theorem SameOutside.of_eq {s t : State} (hrecord : t.record = s.record) (hout : t.outstanding = s.outstanding)
    (hline : t.lineScript = s.lineScript) (hdelay : t.delayScript = s.delayScript) (hdraws : t.draws = s.draws) :
    SameOutside s t :=
  ⟨by simp [State.issued, hrecord, hout], hline, hdelay, hdraws, fun l => by simp [State.lineLevel, hrecord]⟩

theorem SameOutside.trans {s t u : State} (h : SameOutside s t) (h' : SameOutside t u) : SameOutside s u :=
  ⟨h'.issued.trans h.issued, h'.lineScript.trans h.lineScript, h'.delayScript.trans h.delayScript,
    h'.draws.trans h.draws, fun l => (h'.level l).trans (h.level l)⟩

theorem driveNext_sameOutside (s : State) : SameOutside s s.driveNext := by
  apply SameOutside.of_eq <;> simp

theorem hold_sameOutside (s : State) : SameOutside s s.hold := by
  apply SameOutside.of_eq <;> simp

theorem resetBlock_sameOutside (s : State) : SameOutside s s.resetBlock :=
  ⟨by rw [issued_of_outstanding_none (resetBlock_outstanding s), resetBlock_record, abandoned_reverse], rfl, rfl, rfl,
    fun l => levelIn_abandoned l s⟩

/-- No command reaches outside the block in the step that accepts it. -/
theorem Succeeds.sameOutside {s t : State} {i : Instr} (h : Succeeds s t i) : SameOutside s t := by
  cases i with
  | geom =>
    cases h
    exact .of_eq rfl rfl rfl rfl rfl
  | init | clear | output =>
    obtain ⟨_, rfl⟩ := h
    exact .of_eq rfl rfl rfl rfl rfl
  | wrpix | rdcell =>
    obtain ⟨_, _, rfl⟩ := h
    exact .of_eq rfl rfl rfl rfl rfl

/-- A step that is not the sequencer's leaves everything outside the block as it is (R99, R192). -/
theorem step_sameOutside {s t : State} (h : step s = .next t) (hseq : s.rst = true ∨ s.seq = .idle) :
    SameOutside s t := by
  have hpins := driveNext_sameOutside s
  obtain ⟨_, rfl⟩ | ⟨hrst, k, hrun, _⟩ | ⟨_, _, rfl⟩ | ⟨_, _, _, _, code, _, rfl⟩ | ⟨_, _, _, _, i, _, hi⟩ :=
    step_outcomes h
  · exact (resetBlock_sameOutside s).trans (hold_sameOutside _)
  · simp [hrst, hrun] at hseq
  · exact hpins
  · exact hpins.trans (.of_eq rfl rfl rfl rfl rfl)
  · exact hpins.trans hi.sameOutside

/-- Settles O33: `step_sameOutside`; with no request on record each level is the environment's. -/
theorem onlyTheSequencerDrivesLines : Obligations.OnlyTheSequencerDrivesLines := by
  refine ⟨fun s t h hseq => ?_, fun _ => rfl⟩
  obtain ⟨hissued, hline, hdelay, hdraws, hlevel⟩ := step_sameOutside h hseq
  exact ⟨hissued, hline, hdelay, hdraws, hlevel⟩

/-- FAULTED stays in every step without a reset. -/
theorem step_faulted_of_faulted {s t : State} (h : step s = .next t) (hf : s.faulted = true) (hrst : s.rst = false) :
    t.faulted = true := by
  obtain ⟨hr, _⟩ | ⟨_, k, _, he⟩ | ⟨_, _, rfl⟩ | ⟨_, _, _, hf', _⟩ | ⟨_, _, _, hf', _⟩ := step_outcomes h
  · simp [hrst] at hr
  · simpa [hf] using seqStep_faulted he
  · simpa using hf
  · simp [hf] at hf'
  · simp [hf] at hf'

/-- Settles O32: a reset step is `resetBlock` (`step_of_rst`), which keeps the requests issued
(`resetBlock_sameOutside`); no other step clears FAULTED (`step_faulted_of_faulted`). -/
theorem resetSetsTheBlock : Obligations.ResetSetsTheBlock := by
  refine ⟨fun s hrst => ⟨_, step_of_rst hrst, ?_⟩, fun s t h hf hft => ?_, rfl, rfl, rfl, rfl, rfl, rfl, rfl⟩
  · have hissued := ((resetBlock_sameOutside s).trans (hold_sameOutside _)).issued
    simp [State.cmdReady, State.busy, Seq.busy, hissued]
  · by_contra hrst
    simp [step_faulted_of_faulted h hf (by simpa using hrst)] at hft

end Sys2Proof.Machine
end

section
/-! A sequencer step as the environment sees it (R33 to R35, R204): what it records, and the level of the line
driven. -/

namespace Sys2Proof.Machine

theorem afterDrive_record (k : Nat) (l : Line) (v : Level) (answer : Answer) (s : State) :
    (afterDrive k l v answer s).record = .drive l v answer :: s.record := by
  obtain h | ⟨rfl, hp⟩ := continues_or_fails answer s.cfg.policy
  · rw [afterDrive_of_continues h]
    simp
  · rw [afterDrive_of_fail hp]
    rfl

theorem afterDrive_outstanding (k : Nat) (l : Line) (v : Level) (answer : Answer) (s : State) :
    (afterDrive k l v answer s).outstanding = none := by
  obtain h | ⟨rfl, hp⟩ := continues_or_fails answer s.cfg.policy
  · rw [afterDrive_of_continues h]
    simp
  · rw [afterDrive_of_fail hp]
    rfl

/-- A sequencer step issues the event at its index, without or with its answer. -/
theorem seqStep_record {k : Nat} {s t : State} (h : seqStep k s = .next t) :
    ∃ e, eventAt s k = some e ∧
      ((t.record = s.record ∧ t.outstanding = some e) ∨
        ∃ answer, t.record = e.answered answer :: s.record ∧ t.outstanding = none ∧
          ∀ l v, e = .drive l v → s.lineReply = some answer) := by
  obtain ⟨l, v, he, _, rfl⟩ | ⟨l, v, answer, he, hr, rfl⟩ | ⟨us, he, _, rfl⟩ | ⟨us, he, _, rfl⟩ := seqStep_cases h
  · exact ⟨_, he, .inl ⟨rfl, rfl⟩⟩
  · exact ⟨_, he, .inr ⟨answer, afterDrive_record .., afterDrive_outstanding .., fun _ _ _ => hr⟩⟩
  · exact ⟨_, he, .inl ⟨rfl, rfl⟩⟩
  · exact ⟨_, he, .inr ⟨.ok, by simp [afterWait, Event.answered], by simp [afterWait], nofun⟩⟩

/-- The level a line has once a request for it is answered; every other line keeps its own (R35). -/
theorem levelIn_answered (l l' : Line) (v : Level) (answer : Answer) (record : List Issued) :
    levelIn l' (.drive l v answer :: record) =
      if l = l' then (if answer = .ok then v else Config.failedLevel record.length) else levelIn l' record := by
  cases answer <;> rfl

/-- Settles O58: the record of a sequencer step (`seqStep_record`) gives the levels (`levelIn_answered`); any other step
changes none (`step_sameOutside`). -/
theorem lineLevelsFollowTheAnswers : Obligations.LineLevelsFollowTheAnswers := by
  refine ⟨fun s t k l v answer hrst hseq he hr h => ?_, fun s t h hno l => ?_, fun _ => rfl⟩
  · have hstep := seqStep_of_answer ((hold_eventAt s k).trans he) ((hold_lineReply s).trans hr)
    cases ((step_of_running hrst hseq).trans hstep).symm.trans h
    have hlevel (l' : Line) := congrArg (levelIn l') (afterDrive_record k l v answer s.hold)
    simp only [levelIn_answered, hold_record] at hlevel
    exact ⟨(hlevel l).trans (if_pos rfl), fun l' hl => (hlevel l').trans (if_neg hl.symm)⟩
  · by_cases hbusy : s.rst = true ∨ s.seq = .idle
    · exact (step_sameOutside h hbusy).level l
    · obtain ⟨hrst, hrun⟩ : s.rst = false ∧ s.seq ≠ .idle := by simpa using hbusy
      obtain ⟨k, hseq, he⟩ := step_of_busy hrst (Bool.eq_true_of_not_eq_false fun hb => hrun (not_busy_iff.mp hb))
      obtain ⟨e, hev, ⟨hrecord, _⟩ | ⟨answer, hrecord, _, hreply⟩⟩ := seqStep_record (he.symm.trans h)
      · simp [State.lineLevel, hrecord]
      · cases e with
        | drive l' v =>
          exact absurd ((hold_lineReply s).symm.trans (hreply l' v rfl))
            (hno k l' v answer hrst hseq ((hold_eventAt s k).symm.trans hev))
        | wait us => simp [State.lineLevel, hrecord, Event.answered, levelIn]

/-- Settles O60: a reset and an idle step keep the requests issued (`step_sameOutside`); a sequencer step issues its
event (`seqStep_record`), which by the invariant is the one that may be out already. -/
theorem everyIssuedRequestIsRecorded : Obligations.EveryIssuedRequestIsRecorded := by
  refine fun s t hi h => ⟨fun hseq => (step_sameOutside h hseq).issued, fun hrst => ?_, fun k e hrst hseq hev => ?_⟩
  · cases (step_of_rst hrst).symm.trans h
    simp [abandoned_reverse]
  · have hnext : s.nextEvent = some e := by simp [State.nextEvent, hseq, eventAt_eq_getElem?, hev]
    refine ⟨issued_of_outstanding_none, fun hout => ?_, ?_⟩
    · obtain ⟨e', he'⟩ := Option.ne_none_iff_exists'.mp hout
      cases (hi.outstanding e' he').symm.trans hnext
      exact issued_of_outstanding_some he'
    · obtain ⟨e', hev', hrecord⟩ := seqStep_record ((step_of_running hrst hseq).symm.trans h)
      rw [hold_eventAt, eventAt_eq_getElem?, hev] at hev'
      cases hev'
      obtain ⟨hrecord, hout⟩ | ⟨answer, hrecord, hout, _⟩ := hrecord
      · exact .inl (by simp [issued_of_outstanding_some hout, hrecord])
      · exact .inr ⟨answer, by simp [issued_of_outstanding_none hout, hrecord]⟩

end Sys2Proof.Machine
end

section
/-! The invariant under each operation of a step: each part of it that reads what the operation writes, and the rest as
it was. -/

namespace Sys2Proof.Machine

theorem possible_of_eventAt {s : State} {k : Nat} {e : Event} (h : eventAt s k = some e) : e.Possible s.cfg :=
  possible_of_mem_scanTrace (List.mem_of_getElem? ((eventAt_eq_getElem? s k).symm.trans h))

theorem nextEvent_of_running {s : State} {k : Nat} (hseq : s.seq = .running k) : s.nextEvent = eventAt s k := by
  simp [State.nextEvent, hseq]

theorem possible_of_nextEvent {s : State} {e : Event} (h : s.nextEvent = some e) : e.Possible s.cfg := by
  cases hseq : s.seq with
  | idle => simp [State.nextEvent, hseq] at h
  | running k => exact possible_of_eventAt ((nextEvent_of_running hseq).symm.trans h)

/-- The request that a reset abandons is one of this build too. -/
theorem possible_of_mem_abandoned {s : State} (hi : s.Inv) : ∀ i ∈ s.abandoned, i.event.Possible s.cfg := by
  cases ho : s.outstanding with
  | none =>
    rw [State.abandoned, ho]
    exact hi.record
  | some e =>
    rw [State.abandoned, ho]
    exact List.forall_mem_cons.mpr ⟨possible_of_nextEvent (hi.outstanding e ho), hi.record⟩

/-- Settles O36: with CONFIGURED, FAULTED and RESP 0, SEQ idle and an empty record, each part asks nothing more. -/
theorem invariantHoldsAtReset : Obligations.InvariantHoldsAtReset where
  config := nofun
  seq := nofun
  err := ⟨rfl, nofun⟩
  fb := ⟨rfl, rfl⟩
  gamma := nofun
  resp := BitVec.extractLsb'_zero
  record := nofun
  outstanding := nofun

theorem inv_resetBlock {s : State} (hi : s.Inv) : s.resetBlock.Inv where
  config := nofun
  seq := nofun
  err := ⟨rfl, nofun⟩
  fb := ⟨rfl, rfl⟩
  gamma := nofun
  resp := BitVec.extractLsb'_zero
  record := possible_of_mem_abandoned hi
  outstanding := nofun

theorem inv_raiseFatal {s : State} {code : Err} (hi : s.Inv) (hseq : s.seq = .idle) (hcode : code.fatal = true) :
    (s.raiseFatal code).Inv :=
  { hi with
    seq := fun k hk => by simp [hseq] at hk
    err := ⟨hcode.symm, fun (h : code = .lineFail) => by simp [h, Err.fatal] at hcode⟩ }

theorem inv_await {s : State} {e : Event} (hi : s.Inv) (he : s.nextEvent = some e) : (s.await e).Inv :=
  { hi with outstanding := fun _ he' => he.trans he' }

theorem inv_log {s : State} {i : Issued} (hi : s.Inv) (hp : i.event.Possible s.cfg) : (s.log i).Inv :=
  { hi with record := List.forall_mem_cons.mpr ⟨hp, hi.record⟩, outstanding := nofun }

theorem inv_raiseLineFail {s : State} (hi : s.Inv) (hf : s.faulted = false) (hp : s.cfg.policy = .propagate)
    (hout : s.outstanding = none) : s.raiseLineFail.Inv :=
  { hi with seq := nofun, err := ⟨hf, fun _ => hp⟩, outstanding := fun e he => by simp [hout] at he }

/-- The index advances to the next event of the trace, or past the last one to idle. -/
theorem inv_advance {s : State} {k : Nat} (hi : s.Inv) (hseq : s.seq = .running k) (hout : s.outstanding = none) :
    (s.advance k).Inv := by
  obtain ⟨hk, hc, hf⟩ := hi.seq k hseq
  unfold State.advance
  split
  case isTrue hlast =>
    exact { hi with seq := nofun, err := ⟨hf, nofun⟩, outstanding := fun e he => by simp [hout] at he }
  case isFalse hlast =>
    refine { hi with seq := fun k' hk' => ?_, outstanding := fun e he => by simp [hout] at he }
    cases hk'
    exact ⟨lt_of_le_of_ne hk hlast, hc, hf⟩

/-- An answered request is logged, and the OUTPUT goes on, ends, or ends in LINE_FAIL. -/
theorem inv_seqStep {k : Nat} {s t : State} (hi : s.Inv) (hseq : s.seq = .running k) (h : seqStep k s = .next t) :
    t.Inv := by
  have hline := inv_of_sameBlock (takeLine_sameBlock s) hi
  have hdelay := inv_of_sameBlock (takeDelay_sameBlock s) hi
  have hnext := nextEvent_of_running hseq
  obtain ⟨_, _, hf⟩ := hi.seq k hseq
  obtain ⟨l, v, he, _, rfl⟩ | ⟨l, v, answer, he, _, rfl⟩ | ⟨us, he, _, rfl⟩ | ⟨us, he, _, rfl⟩ := seqStep_cases h
  · exact inv_await hline (hnext.trans he)
  · have hlog := inv_log (i := .drive l v answer) hline (possible_of_eventAt he)
    obtain hgo | ⟨rfl, hp⟩ := continues_or_fails answer s.cfg.policy
    · rw [afterDrive_of_continues hgo]
      exact inv_advance hlog hseq rfl
    · rw [afterDrive_of_fail hp]
      exact inv_raiseLineFail hlog hf hp rfl
  · exact inv_await hdelay (hnext.trans he)
  · exact inv_advance (inv_log (i := .wait us) hdelay (possible_of_eventAt he)) hseq rfl

end Sys2Proof.Machine
end

section
/-! The invariant under a command that succeeds (R26 to R28, R103 to R107, R130). -/

namespace Sys2Proof.Machine

/-- What the colour path stores is a gamma output of its channel (R96, R97): red and blue are 5-bit channels, green is
the 6-bit one. -/
theorem gammaOutput_red (cfg : Config) (color : BitVec 16) (bottom : Bool) :
    gammaOutput cfg (firstChannel bottom) (ingest cfg color).red := by
  cases bottom <;> exact ⟨_, rfl⟩

theorem gammaOutput_green (cfg : Config) (color : BitVec 16) (bottom : Bool) :
    gammaOutput cfg (firstChannel bottom + 1) (ingest cfg color).green := by
  cases bottom <;> exact ⟨_, rfl⟩

theorem gammaOutput_blue (cfg : Config) (color : BitVec 16) (bottom : Bool) :
    gammaOutput cfg (firstChannel bottom + 2) (ingest cfg color).blue := by
  cases bottom <;> exact ⟨_, rfl⟩

theorem firstChannel_le (bottom : Bool) : firstChannel bottom ≤ 3 := by
  cases bottom <;> decide

/-- A pixel's triple written from a colour keeps every channel 0 or a gamma output (R28). -/
theorem gammaOk_writeTriple {m : Memory} {cfg : Config} {p : Place} {color : BitVec 16} {h c ch : Nat}
    (hwf : m.wf = true) (hp : p.c < 64) (hc : c < 64) (hch : ch < 6)
    (hold : m.read (fbIndex h c ch) = 0 ∨ gammaOutput cfg ch (m.read (fbIndex h c ch))) :
    (m.writeTriple p (ingest cfg color)).read (fbIndex h c ch) = 0 ∨
      gammaOutput cfg ch ((m.writeTriple p (ingest cfg color)).read (fbIndex h c ch)) := by
  have hfirst := firstChannel_le p.bottom
  rw [Memory.read_writeTriple hwf]
  split_ifs with hblue hgreen hred
  · obtain ⟨_, _, rfl⟩ := (fbIndex_inj hc hch hp (by omega)).mp hblue
    exact .inr (gammaOutput_blue ..)
  · obtain ⟨_, _, rfl⟩ := (fbIndex_inj hc hch hp (by omega)).mp hgreen
    exact .inr (gammaOutput_green ..)
  · obtain ⟨_, _, rfl⟩ := (fbIndex_inj hc hch hp (by omega)).mp hred
    exact .inr (gammaOutput_red ..)
  · exact hold

/-! The top byte of GEOM's and RDCELL's answer is 0 (R106, R107). -/

theorem geomWord_top (v : Variant) : (geomWord v).extractLsb' 24 8 = 0 := by
  cases v <;> decide

theorem tripleWord_top (red green blue : Byte) : (tripleWord red green blue).extractLsb' 24 8 = 0 := by
  rw [tripleWord, BitVec.extractLsb'_append_eq_of_le (by decide), BitVec.extractLsb'_append_eq_of_le (by decide)]
  exact BitVec.extractLsb'_append_eq_left

theorem Succeeds.inv {s t : State} {i : Instr} (hi : s.Inv) (hseq : s.seq = .idle) (hf : s.faulted = false)
    (h : Succeeds s t i) : t.Inv := by
  have hout := outstanding_of_idle hi hseq
  cases i with
  | init bb =>
    obtain ⟨hbb, rfl⟩ := h
    obtain ⟨hb1, hb8⟩ := outOfDepth_eq_false_iff.mp hbb
    exact { hi with
      config := fun _ => ⟨hb1, hb8, rfl, rfl⟩
      seq := fun k hk => by simp [hseq] at hk
      err := ⟨hf, nofun⟩
      fb := ⟨rfl, rfl⟩
      gamma := fun _ _ _ _ _ _ _ => .inl (Memory.read_zeroed _)
      outstanding := fun e he => by simp [hout] at he }
  | wrpix y x color =>
    obtain ⟨hc, _, rfl⟩ := h
    obtain ⟨hwf, hbelow⟩ := hi.fb
    exact { hi with
      err := ⟨hf, nofun⟩
      fb := ⟨Memory.wf_writeTriple _ _ hwf, Memory.below_writeTriple _ (placeOf_h_lt ..) x.isLt hbelow⟩
      gamma := fun _ h c ch hh hcol hch => gammaOk_writeTriple hwf x.isLt hcol hch (hi.gamma hc h c ch hh hcol hch)
      seq := fun k hk => by simp [hseq] at hk
      outstanding := fun e he => by simp [hout] at he }
  | clear =>
    obtain ⟨_, rfl⟩ := h
    exact { hi with
      err := ⟨hf, nofun⟩
      fb := ⟨rfl, rfl⟩
      gamma := fun _ _ _ _ _ _ _ => .inl (Memory.read_zeroed _)
      seq := fun k hk => by simp [hseq] at hk
      outstanding := fun e he => by simp [hout] at he }
  | output =>
    obtain ⟨hc, rfl⟩ := h
    refine { hi with seq := fun k hk => ?_, outstanding := fun e he => by simp [hout] at he }
    cases hk
    exact ⟨Nat.succ_pos _, hc, hf⟩
  | geom =>
    cases h
    exact { hi with err := ⟨hf, nofun⟩, resp := geomWord_top s.cfg.variant }
  | rdcell y x =>
    obtain ⟨_, _, rfl⟩ := h
    exact { hi with err := ⟨hf, nofun⟩, resp := tripleWord_top .. }

/-- Settles O37: a reset, the host's move, a fatal error, a sequencer step and a command that succeeds each keep the
invariant. -/
theorem stepKeepsInvariant : Obligations.StepKeepsInvariant := by
  intro s t hi h
  have hpins := inv_of_sameBlock (driveNext_sameBlock s) hi
  obtain ⟨_, rfl⟩ | ⟨_, k, hseq, he⟩ | ⟨_, _, rfl⟩ | ⟨_, hseq, _, _, code, hcode, rfl⟩ |
    ⟨_, hseq, _, hf, i, _, hsucc⟩ := step_outcomes h
  · exact inv_of_sameBlock (hold_sameBlock _) (inv_resetBlock hi)
  · exact inv_seqStep (inv_of_sameBlock (hold_sameBlock s) hi) ((hold_seq s).trans hseq) he
  · exact hpins
  · exact inv_raiseFatal hpins ((driveNext_seq s).trans hseq) hcode
  · exact hsucc.inv hpins ((driveNext_seq s).trans hseq) ((driveNext_faulted s).trans hf)

end Sys2Proof.Machine
end

section
/-! Runs (R36, R194, R204): the machine never stops, FAULTED stays, and a run that has ended stays ended. -/

namespace Sys2Proof.Machine

theorem exists_eventAt {s : State} {k : Nat} (hk : k < traceLength s) : ∃ e, eventAt s k = some e := by
  rw [eventAt_eq_getElem?]
  exact ⟨_, List.getElem?_eq_getElem ((scanTrace_length s).symm ▸ hk)⟩

/-- Settles O38: a running sequencer is inside its trace, so its index has an event (`exists_eventAt`), and every other
kind of step answers. -/
theorem machineNeverStops : Obligations.MachineNeverStops := by
  intro s hi
  obtain ⟨_, he⟩ | ⟨_, k, hseq, he⟩ | ⟨_, _, _, i, _, he⟩ | ⟨_, _, _, _, _, he⟩ | ⟨_, _, _, he⟩ := step_cases s
  · exact ⟨_, he⟩
  · obtain ⟨hk, _, _⟩ := hi.seq k hseq
    obtain ⟨e, hev⟩ := exists_eventAt hk
    rw [he]
    exact seqStep_next_of_event ((hold_eventAt s k).trans hev)
  · rw [he]
    exact exec_answers i _
  · rw [he]
    obtain ⟨_, hx⟩ | ⟨_, hx⟩ := acceptIllegal_cases s.driveNext
    · exact ⟨_, hx⟩
    · exact ⟨_, hx⟩
  · exact ⟨_, he⟩

theorem final_of_sameBlock {s t : State} (h : SameBlock s t) : t.final = s.final := by
  simp [State.final, State.issued, h.configured, h.bb, h.fb, h.faulted, h.err, h.resp, h.record, h.outstanding]

theorem driveNext_noReset {s : State} (h : s.noReset = true) : s.driveNext.noReset = true := by
  unfold State.noReset at h ⊢
  cases hh : s.resets <;> simp_all

/-- Settles O28: each step of a FAULTED block is the host's move alone (`step_of_faulted`), which keeps the invariant
and the block. -/
theorem faultedIsSticky : Obligations.FaultedIsSticky := by
  intro n
  induction n with
  | zero => exact fun s _ hf _ => ⟨s, rfl, hf, rfl, rfl⟩
  | succ n ih =>
    intro s hi hf hreset
    have hpins := driveNext_sameBlock s
    obtain ⟨t, hrun, htf, hfinal, hstatus⟩ :=
      ih s.driveNext (inv_of_sameBlock hpins hi) (hpins.faulted.trans hf) (driveNext_noReset hreset)
    have hstep := step_of_faulted (rst_of_noReset hreset) (hi.seq_eq_idle_of_faulted hf) hf
    exact ⟨t, (runFor_succ hstep).trans hrun, htf, hfinal.trans (final_of_sameBlock hpins),
      hstatus.trans (statusWord_of_sameBlock hpins)⟩

theorem hostDone_iff {s : State} : s.hostDone = true ↔ s.cmdValid = false ∧ ∀ d ∈ s.host, d = .quiet := by
  simp [State.hostDone]

theorem ended_iff {s : State} :
    s.ended = true ↔ (s.cmdValid = false ∧ ∀ d ∈ s.host, d = .quiet) ∧ (s.seq = .idle ∨ s.faulted = true) := by
  rw [← hostDone_iff, ← not_busy_iff]
  simp [State.ended]

/-- A host with no further command has none after its pins have moved. -/
theorem driveNext_hostDone {s : State} (h : s.hostDone = true) : s.driveNext.hostDone = true := by
  rw [hostDone_iff] at h ⊢
  obtain ⟨hvalid, hhost⟩ := h
  cases hh : s.host with
  | nil => simp [State.driveNext, State.driveCmd, hh]
  | cons d rest =>
    rw [hh] at hhost
    obtain ⟨rfl, hrest⟩ := List.forall_mem_cons.mp hhost
    exact ⟨by simp [State.driveNext, State.driveCmd, hh], by simpa [State.driveNext, State.driveCmd, hh] using hrest⟩

theorem driveNext_ended {s : State} (hdone : s.hostDone = true) (hseq : s.seq = .idle) : s.driveNext.ended = true := by
  have hbusy : s.driveNext.busy = false := not_busy_iff.mpr ((driveNext_seq s).trans hseq)
  simp [State.ended, driveNext_hostDone hdone, hbusy]

/-- Settles O59: an ended block is idle, with no command offered, so its step is a reset or the host's move alone, and
the host offers nothing afterwards (`driveNext_ended`). -/
theorem endedRunsStayFinal : Obligations.EndedRunsStayFinal := by
  refine ⟨fun s => ended_iff, fun s hi h => ?_, fun s hi hbusy => ?_⟩
  · obtain ⟨hquiet, hidle⟩ := ended_iff.mp h
    have hdone := hostDone_iff.mpr hquiet
    obtain ⟨hvalid, _⟩ := hquiet
    have hseq : s.seq = .idle := hidle.elim id hi.seq_eq_idle_of_faulted
    cases hrst : s.rst with
    | true =>
      have hended := driveNext_ended (s := s.resetBlock) hdone rfl
      exact ⟨_, step_of_rst hrst, by rwa [hold_of_quiet (s := s.resetBlock) hvalid], nofun⟩
    | false =>
      exact ⟨_, step_of_quiet hrst hseq hvalid, driveNext_ended hdone hseq,
        fun _ => final_of_sameBlock (driveNext_sameBlock s)⟩
  · obtain ⟨k, hk⟩ := busy_iff.mp hbusy
    obtain ⟨_, _, hf⟩ := hi.seq k hk
    simp [State.ended, hbusy, hf]

end Sys2Proof.Machine
end

section
/-! STATUS and ERR (R24, R171). -/

namespace Sys2Proof.Machine

/-- A sequencer step writes ERR only when it ends the OUTPUT (R24). -/
theorem seqStep_err {k : Nat} {s t : State} (hseq : s.seq = .running k) (h : seqStep k s = .next t) :
    (t.busy = true ∧ t.err = s.err) ∨ (t.busy = false ∧ (t.err = .none ∨ t.err = .lineFail)) := by
  have hadvance (u : State) : ((u.advance k).busy = true ∧ (u.advance k).err = u.err) ∨
      ((u.advance k).busy = false ∧ (u.advance k).err = .none) := by
    unfold State.advance
    split
    · exact .inr ⟨rfl, rfl⟩
    · exact .inl ⟨rfl, rfl⟩
  obtain ⟨l, v, _, _, rfl⟩ | ⟨l, v, answer, _, _, rfl⟩ | ⟨us, _, _, rfl⟩ | ⟨us, _, _, rfl⟩ := seqStep_cases h
  · exact .inl ⟨busy_iff.mpr ⟨k, hseq⟩, rfl⟩
  · obtain hgo | ⟨rfl, hp⟩ := continues_or_fails answer s.cfg.policy
    · rw [afterDrive_of_continues hgo]
      exact (hadvance _).imp_right fun ⟨hb, he⟩ => ⟨hb, .inl he⟩
    · rw [afterDrive_of_fail hp]
      exact .inr ⟨rfl, .inr rfl⟩
  · exact .inl ⟨busy_iff.mpr ⟨k, hseq⟩, rfl⟩
  · exact (hadvance _).imp_right fun ⟨hb, he⟩ => ⟨hb, .inl he⟩

theorem getLsbD_of_extractLsb'_eq_ofBool {w : Word} {k : Nat} {b : Bool} (h : w.extractLsb' k 1 = BitVec.ofBool b) :
    w.getLsbD k = b := by
  simpa using congrArg (BitVec.getLsbD · 0) h

/-- STATUS, read field by field from the low end (R24). -/
theorem statusWord_fields (s : State) :
    (statusWord s).getLsbD 0 = s.busy ∧ (statusWord s).getLsbD 1 = s.configured ∧
    (statusWord s).getLsbD 2 = s.faulted ∧ (statusWord s).getLsbD 3 = false ∧
    (statusWord s).extractLsb' 4 4 = s.err.code ∧ (statusWord s).extractLsb' 8 4 = s.bbStatus ∧
    (statusWord s).getLsbD 12 = Variant.bit s.cfg.variant ∧ (statusWord s).getLsbD 13 = FailPolicy.bit s.cfg.policy ∧
    (statusWord s).extractLsb' 14 18 = 0 := by
  obtain ⟨h, hbusy⟩ := (eq_append_iff (m := 31) (n := 1) (w := statusWord s)).mp rfl
  obtain ⟨h, hconfigured⟩ := (extractLsb'_eq_append_iff (m := 30) (n := 1)).mp h
  obtain ⟨h, hfaulted⟩ := (extractLsb'_eq_append_iff (m := 29) (n := 1)).mp h
  obtain ⟨h, hreserved⟩ := (extractLsb'_eq_append_iff (m := 28) (n := 1)).mp h
  obtain ⟨h, herr⟩ := (extractLsb'_eq_append_iff (m := 24) (n := 4)).mp h
  obtain ⟨h, hbb⟩ := (extractLsb'_eq_append_iff (m := 20) (n := 4)).mp h
  obtain ⟨h, hvariant⟩ := (extractLsb'_eq_append_iff (m := 19) (n := 1)).mp h
  obtain ⟨htop, hpolicy⟩ := (extractLsb'_eq_append_iff (m := 18) (n := 1)).mp h
  exact ⟨getLsbD_of_extractLsb'_eq_ofBool hbusy, getLsbD_of_extractLsb'_eq_ofBool hconfigured,
    getLsbD_of_extractLsb'_eq_ofBool hfaulted, getLsbD_of_extractLsb'_eq_ofBool (b := false) hreserved, herr, hbb,
    getLsbD_of_extractLsb'_eq_ofBool hvariant, getLsbD_of_extractLsb'_eq_ofBool hpolicy, htop⟩

theorem variant_bit_eq (v : Variant) : Variant.bit v = decide (v = .double) := by
  cases v <;> rfl

theorem policy_bit_eq (p : FailPolicy) : FailPolicy.bit p = decide (p = .bestEffort) := by
  cases p <;> rfl

/-- What the step that accepts a legal command does to FAULTED and ERR. -/
theorem step_err_of_command {s t : State} {i : Instr} (hrst : s.rst = false) (hf : s.faulted = false)
    (hseq : s.seq = .idle) (hvalid : s.cmdValid = true) (hd : decode s.cmd = .command i) (h : step s = .next t) :
    (t.faulted = true ∧ t.err.fatal = true) ∨
      (t.faulted = false ∧ if i = .output then t.err = s.err else t.err = .none) := by
  have he := (step_of_command hrst hseq hvalid hd).symm.trans h
  obtain ⟨hf', _⟩ | ⟨_, code, hcode, hx⟩ | ⟨_, u, hx, hu⟩ := exec_cases i s.driveNext
  · simp [hf] at hf'
  · cases hx.symm.trans he
    exact .inl ⟨rfl, hcode⟩
  · cases hx.symm.trans he
    refine .inr ⟨by simp [hu.faulted, hf], ?_⟩
    split
    case isTrue hi =>
      subst hi
      obtain ⟨_, rfl⟩ := hu
      exact driveNext_err s
    case isFalse hi => exact (hu.seq_and_err hi).2

/-- Settles O34: the fields (`statusWord_fields`); ERR stays while FAULTED (`step_of_faulted`), is written by the
commands (`step_err_of_command`), and by the sequencer when an OUTPUT ends (`seqStep_err`). -/
theorem statusLayoutAndErrUpdates : Obligations.StatusLayoutAndErrUpdates := by
  refine ⟨fun s => ?_, ⟨rfl, rfl, rfl, rfl, rfl, rfl⟩, fun s t hi hrst h => ⟨?faulted, ?command, ?output, ?busy, ?ends⟩,
    by decide⟩
  · rw [← variant_bit_eq, ← policy_bit_eq]
    exact statusWord_fields s
  case faulted =>
    intro hf
    cases (step_of_faulted hrst (hi.seq_eq_idle_of_faulted hf) hf).symm.trans h
    exact driveNext_err s
  case command =>
    intro i hf hseq hvalid hd hne
    simpa [hne, or_comm] using step_err_of_command hrst hf hseq hvalid hd h
  case output =>
    intro hseq hvalid hd hft
    have hf : s.faulted = false := by
      by_contra hf
      simp [step_faulted_of_faulted h (by simpa using hf) hrst] at hft
    simpa [hft] using step_err_of_command hrst hf hseq hvalid hd h
  case busy =>
    intro hbusy hbusy'
    obtain ⟨k, hk, he⟩ := step_of_busy hrst hbusy
    simpa [hbusy'] using seqStep_err ((hold_seq s).trans hk) (he.symm.trans h)
  case ends =>
    intro hbusy hbusy'
    obtain ⟨k, hk, he⟩ := step_of_busy hrst hbusy
    simpa [hbusy'] using seqStep_err ((hold_seq s).trans hk) (he.symm.trans h)

end Sys2Proof.Machine
end

section
/-! One step of a running OUTPUT, event by event of the trace (R144, R145). -/

namespace Sys2Proof.Machine

theorem hold_delayReply (s : State) : s.hold.delayReply = s.delayReply := by
  simp [State.delayReply]

theorem hold_scanTrace (s : State) : scanTrace s.hold = scanTrace s :=
  scanTrace_congr (hold_fb s) (hold_stepReg s) (hold_countReg s) (hold_cfg s)

theorem hold_eventAt_of_getElem? {s : State} {k : Nat} {e : Event} (h : (scanTrace s)[k]? = some e) :
    eventAt s.hold k = some e :=
  (hold_eventAt s k).trans ((eventAt_eq_getElem? s k).trans h)

/-- A request answered at index `k` and the advance after it, the port's inputs apart. -/
theorem advance_log (k : Nat) (i : Issued) (s : State) :
    (s.log i).advance k = { s with
      record := i :: s.record, outstanding := none
      seq := if k + 1 = (scanTrace s).length then .idle else .running (k + 1)
      err := if k + 1 = (scanTrace s).length then .none else s.err } := by
  rw [advance_eq, scanTrace_length]
  rfl

theorem hold_takeLine_advance (k : Nat) (i : Issued) (s : State) :
    (s.hold.takeLine.log i).advance k = { s.hold with
      lineScript := s.lineScript.tail, draws := s.draws + 1, record := i :: s.record, outstanding := none
      seq := if k + 1 = (scanTrace s).length then .idle else .running (k + 1)
      err := if k + 1 = (scanTrace s).length then .none else s.err } := by
  rw [advance_log, ← hold_lineScript s, ← hold_draws s, ← hold_record s, ← hold_err s, ← hold_scanTrace s]
  rfl

theorem hold_takeDelay_advance (k : Nat) (i : Issued) (s : State) :
    (s.hold.takeDelay.log i).advance k = { s.hold with
      delayScript := s.delayScript.tail, draws := s.draws + 1, record := i :: s.record, outstanding := none
      seq := if k + 1 = (scanTrace s).length then .idle else .running (k + 1)
      err := if k + 1 = (scanTrace s).length then .none else s.err } := by
  rw [advance_log, ← hold_delayScript s, ← hold_draws s, ← hold_record s, ← hold_err s, ← hold_scanTrace s]
  rfl

section
variable {s : State} {k : Nat} (hrst : s.rst = false) (hseq : s.seq = .running k)
include hrst hseq

/-- An answered drive that does not end the OUTPUT. -/
theorem step_of_answer {l : Line} {v : Level} {answer : Answer} (he : (scanTrace s)[k]? = some (.drive l v))
    (hr : s.lineReply = some answer) (hgo : answer = .ok ∨ s.cfg.policy = .bestEffort) :
    step s = .next ((s.hold.takeLine.log (.drive l v answer)).advance k) := by
  rw [step_of_running hrst hseq, seqStep_of_answer (hold_eventAt_of_getElem? he) ((hold_lineReply s).trans hr),
    afterDrive_of_continues (by rwa [hold_cfg])]

theorem step_of_done {us : Nat} (he : (scanTrace s)[k]? = some (.wait us)) (hr : s.delayReply = .done) :
    step s = .next ((s.hold.takeDelay.log (.wait us)).advance k) := by
  rw [step_of_running hrst hseq, seqStep_of_done (hold_eventAt_of_getElem? he) ((hold_delayReply s).trans hr),
    afterWait]

theorem step_of_noAnswer {l : Line} {v : Level} (he : (scanTrace s)[k]? = some (.drive l v))
    (hr : s.lineReply = none) :
    step s = .next { s.hold with
      lineScript := s.lineScript.tail, draws := s.draws + 1, outstanding := some (.drive l v) } := by
  rw [step_of_running hrst hseq, seqStep_of_noAnswer (hold_eventAt_of_getElem? he) ((hold_lineReply s).trans hr),
    ← hold_lineScript s, ← hold_draws s]
  rfl

theorem step_of_pending {us : Nat} (he : (scanTrace s)[k]? = some (.wait us)) (hr : s.delayReply = .pending) :
    step s = .next { s.hold with
      delayScript := s.delayScript.tail, draws := s.draws + 1, outstanding := some (.wait us) } := by
  rw [step_of_running hrst hseq, seqStep_of_pending (hold_eventAt_of_getElem? he) ((hold_delayReply s).trans hr),
    ← hold_delayScript s, ← hold_draws s]
  rfl

end

/-- Settles O51: an `ok` answer and a completed wait advance (`step_of_answer`, `step_of_done`), a `fail` is the
LINE_FAIL entry (`step_of_fail`), and without an answer the request is out (`step_of_noAnswer`, `step_of_pending`). -/
theorem propagateStep : Obligations.PropagateStep := by
  refine fun s k hrst hseq hp => ⟨fun l v he => ⟨fun hr => ?_, fun hr => ?_, step_of_noAnswer hrst hseq he⟩,
    fun us he => ⟨fun hr => ?_, step_of_pending hrst hseq he⟩⟩
  · rw [step_of_answer hrst hseq he hr (.inl rfl), hold_takeLine_advance]
  · rw [step_of_fail hrst hseq hp he hr, ← hold_lineScript s, ← hold_draws s, ← hold_record s]
    rfl
  · rw [step_of_done hrst hseq he hr, hold_takeDelay_advance]

/-- Settles O52: as under Propagate, but that any answer advances (`step_of_answer`). -/
theorem bestEffortStep : Obligations.BestEffortStep := by
  refine fun s k hrst hseq hp => ⟨fun l v he => ⟨fun answer hr => ?_, step_of_noAnswer hrst hseq he⟩,
    fun us he => ⟨fun hr => ?_, step_of_pending hrst hseq he⟩⟩
  · rw [step_of_answer hrst hseq he hr (.inr hp), hold_takeLine_advance]
  · rw [step_of_done hrst hseq he hr, hold_takeDelay_advance]

end Sys2Proof.Machine
end

section
/-! A run of a sequencer whose requests are all answered (R144, R145): it performs one event a step. -/

namespace Sys2Proof.Machine

/-- The block's registers, FB and the build are the same: all but SEQ, ERR, the ports, the record and the host's
pins. -/
def RunFrame (s t : State) : Prop :=
  t = { s with seq := t.seq, err := t.err, lineScript := t.lineScript, delayScript := t.delayScript, draws := t.draws
               outstanding := t.outstanding, record := t.record, cmd := t.cmd, cmdValid := t.cmdValid, rst := t.rst
               host := t.host, resets := t.resets }

theorem RunFrame.trans {s t u : State} (h : RunFrame s t) (h' : RunFrame t u) : RunFrame s u := by
  unfold RunFrame at h h'
  rw [h] at h'
  exact h'

theorem hold_runFrame (s : State) : RunFrame s s.hold := by
  unfold State.hold
  split
  · rfl
  · rw [RunFrame, driveNext_eq s]

theorem RunFrame.scanTrace_eq {s t : State} (h : RunFrame s t) : scanTrace t = scanTrace s := by
  unfold RunFrame at h
  rw [h]
  rfl

/-- An event of the trace and the answer its request gets; a wait's answer says nothing. -/
abbrev AnsweredEvent := Event × Answer

/-- The events in a list of answered events. -/
def eventsOf (ps : List AnsweredEvent) : List Event := ps.map Prod.fst

/-- What the line port shows for these events. -/
def lineRepliesOf (ps : List AnsweredEvent) : List LineReply := (ps.filter fun p => p.1.isDrive).map fun p => some p.2

/-- What these events leave on record, oldest first. -/
def recordOf (ps : List AnsweredEvent) : List Issued := ps.map fun p => p.1.answered p.2

/-- SEQ before event `k` of the trace; idle after the last one. -/
def State.seqAt (s : State) (k : Nat) : Seq := if k = (scanTrace s).length then .idle else .running k

/-- ERR before event `k` of the trace; NONE after the last one. -/
def State.errAt (s : State) (k : Nat) (err : Err) : Err := if k = (scanTrace s).length then .none else err

/-- The state is before event `k` of its trace, the events of `ps` come next, the ports show their answers and then `ls`
and `ds`, and no answer ends the OUTPUT. -/
structure Scripted (s : State) (k : Nat) (ps : List AnsweredEvent) (ls : List LineReply) (ds : List DelayReply) :
    Prop where
  seq : s.seq = s.seqAt k
  err : s.err = s.errAt k s.err
  noReset : s.noReset = true
  events : eventsOf ps <+: (scanTrace s).drop k
  goes : ∀ p ∈ ps, p.2 = .ok ∨ s.cfg.policy = .bestEffort
  line : s.lineScript = lineRepliesOf ps ++ ls
  delay : s.delayScript = delayRepliesFor (eventsOf ps) ++ ds

/-- The events of `ps` were performed from event `k` on. -/
structure Performed (s : State) (k : Nat) (ps : List AnsweredEvent) (ls : List LineReply) (ds : List DelayReply)
    (t : State) : Prop where
  frame : RunFrame s t
  seq : t.seq = s.seqAt (k + ps.length)
  err : t.err = s.errAt (k + ps.length) s.err
  noReset : t.noReset = true
  line : t.lineScript = ls
  delay : t.delayScript = ds
  record : t.record = (recordOf ps).reverse ++ s.record
  outstanding : t.outstanding = if ps = [] then s.outstanding else none

/-- What it says that `e` and then `es` come next in a list. -/
theorem cons_isPrefix_drop {e : Event} {es es' : List Event} {k : Nat} (h : e :: es <+: es'.drop k) :
    es'[k]? = some e ∧ es <+: es'.drop (k + 1) := by
  obtain ⟨rest, hrest⟩ := h
  have hk : k < es'.length := by
    by_contra hk
    simp [List.drop_eq_nil_of_le (Nat.not_lt.mp hk)] at hrest
  rw [List.drop_eq_getElem_cons hk] at hrest
  obtain ⟨he, hes⟩ := List.cons_eq_cons.mp hrest
  exact ⟨by rw [he, List.getElem?_eq_getElem hk], rest, hes⟩

/-- One step performs one event. -/
theorem Scripted.exists_step {s : State} {k : Nat} {p : AnsweredEvent} {ps : List AnsweredEvent} {ls : List LineReply}
    {ds : List DelayReply} (h : Scripted s k (p :: ps) ls ds) :
    ∃ u, step s = .next u ∧ Performed s k [p] (lineRepliesOf ps ++ ls) (delayRepliesFor (eventsOf ps) ++ ds) u := by
  obtain ⟨hseq, _, hreset, hevents, hgoes, hline, hdelay⟩ := h
  obtain ⟨hev, _⟩ := cons_isPrefix_drop hevents
  have hrun : s.seq = .running k := by
    obtain ⟨hk, _⟩ := List.getElem?_eq_some_iff.mp hev
    exact hseq.trans (if_neg hk.ne)
  have hrst := rst_of_noReset hreset
  have hgo := hgoes p List.mem_cons_self
  obtain ⟨e, answer⟩ := p
  cases e with
  | drive l v =>
    have hstep := step_of_answer hrst hrun hev (by rw [State.lineReply, hline]; rfl) hgo
    rw [hold_takeLine_advance] at hstep
    exact ⟨_, hstep, (hold_runFrame s).trans rfl, rfl, rfl, hold_noReset hreset, by rw [hline]; rfl,
      (hold_delayScript s).trans hdelay, rfl, rfl⟩
  | wait us =>
    have hstep := step_of_done hrst hrun hev (by rw [State.delayReply, hdelay]; rfl)
    rw [hold_takeDelay_advance] at hstep
    exact ⟨_, hstep, (hold_runFrame s).trans rfl, rfl, rfl, hold_noReset hreset, (hold_lineScript s).trans hline,
      by rw [hdelay]; rfl, rfl, rfl⟩

/-- After the first event the rest comes next. -/
theorem Scripted.tail {s u : State} {k : Nat} {p : AnsweredEvent} {ps : List AnsweredEvent} {ls : List LineReply}
    {ds : List DelayReply} (h : Scripted s k (p :: ps) ls ds)
    (hu : Performed s k [p] (lineRepliesOf ps ++ ls) (delayRepliesFor (eventsOf ps) ++ ds) u) :
    Scripted u (k + 1) ps ls ds where
  seq := by rw [hu.seq, State.seqAt, State.seqAt, hu.frame.scanTrace_eq]; rfl
  err := by
    rw [hu.err, State.errAt, State.errAt, hu.frame.scanTrace_eq]
    split_ifs <;> simp_all
  noReset := hu.noReset
  events := by
    rw [hu.frame.scanTrace_eq]
    exact (cons_isPrefix_drop h.events).2
  goes q hq := by
    rw [congrArg State.cfg hu.frame]
    exact h.goes q (List.mem_cons_of_mem _ hq)
  line := hu.line
  delay := hu.delay

theorem Performed.cons {s u t : State} {k : Nat} {p : AnsweredEvent} {ps : List AnsweredEvent} {ls ls' : List LineReply}
    {ds ds' : List DelayReply} (hu : Performed s k [p] ls' ds' u) (ht : Performed u (k + 1) ps ls ds t)
    (hk : k + 1 + ps.length ≤ (scanTrace s).length) :
    Performed s k (p :: ps) ls ds t where
  frame := hu.frame.trans ht.frame
  seq := by
    rw [ht.seq, State.seqAt, State.seqAt, hu.frame.scanTrace_eq, List.length_cons, Nat.add_right_comm, Nat.add_assoc]
  err := by
    have hend : k + 1 + ps.length = k + (p :: ps).length := by
      rw [List.length_cons]
      omega
    rw [ht.err, hu.err, State.errAt, State.errAt, State.errAt, hu.frame.scanTrace_eq, hend]
    split_ifs with hlast hfirst
    · rfl
    · rw [List.length_singleton] at hfirst
      omega
    · rfl
  noReset := ht.noReset
  line := ht.line
  delay := ht.delay
  record := by simp [ht.record, hu.record, recordOf]
  outstanding := by simp [ht.outstanding, hu.outstanding]

theorem Scripted.length_le {s : State} {k : Nat} {p : AnsweredEvent} {ps : List AnsweredEvent} {ls : List LineReply}
    {ds : List DelayReply} (h : Scripted s k (p :: ps) ls ds) : k + 1 + ps.length ≤ (scanTrace s).length := by
  have hle := h.events.length_le
  simp only [eventsOf, List.map_cons, List.length_cons, List.length_map, List.length_drop] at hle
  omega

/-- A run performs the events, one a step. -/
theorem Scripted.exists_run {ps : List AnsweredEvent} {s : State} {k : Nat} {ls : List LineReply} {ds : List DelayReply}
    (h : Scripted s k ps ls ds) : ∃ t, runFor ps.length s = .next t ∧ Performed s k ps ls ds t := by
  induction ps generalizing s k with
  | nil => exact ⟨s, rfl, rfl, h.seq, h.err, h.noReset, h.line, h.delay, rfl, rfl⟩
  | cons p ps ih =>
    obtain ⟨u, hstep, hu⟩ := h.exists_step
    obtain ⟨t, hrun, ht⟩ := ih (h.tail hu)
    exact ⟨t, (runFor_succ hstep).trans hrun, hu.cons ht h.length_le⟩

end Sys2Proof.Machine
end

section
/-! Whole OUTPUTs (R144, R145, R176): all events performed, or those up to the first failure. -/

namespace Sys2Proof.Machine

theorem scanTrace_length_pos (s : State) : 0 < (scanTrace s).length := by
  rw [scanTrace_length]
  exact Nat.succ_pos _

/-- The same answer to every event. -/
def answerAll (answer : Answer) (es : List Event) : List AnsweredEvent := es.map fun e => (e, answer)

@[simp] theorem eventsOf_answerAll (answer : Answer) (es : List Event) : eventsOf (answerAll answer es) = es := by
  simp [eventsOf, answerAll, Function.comp_def]

@[simp] theorem lineRepliesOf_answerAll (answer : Answer) (es : List Event) :
    lineRepliesOf (answerAll answer es) = lineRepliesFor answer es := by
  simp [lineRepliesOf, answerAll, lineRepliesFor, List.filter_map, Function.comp_def]

@[simp] theorem recordOf_answerAll (answer : Answer) (es : List Event) :
    recordOf (answerAll answer es) = es.map (Event.answered answer) := by
  simp [recordOf, answerAll, Function.comp_def]

theorem snd_of_mem_answerAll {answer : Answer} {es : List Event} {p : AnsweredEvent} (h : p ∈ answerAll answer es) :
    p.2 = answer := by
  obtain ⟨e, _, rfl⟩ := List.mem_map.mp h
  rfl

theorem length_eventsOf (ps : List AnsweredEvent) : (eventsOf ps).length = ps.length := List.length_map ..

/-- An OUTPUT at its first event, with the ports' answers to `ps` to come. -/
theorem scripted_of_start {s : State} {ps : List AnsweredEvent} {ls : List LineReply} {ds : List DelayReply}
    (hseq : s.seq = .running 0) (hreset : s.noReset = true) (hevents : eventsOf ps <+: scanTrace s)
    (hgoes : ∀ p ∈ ps, p.2 = .ok ∨ s.cfg.policy = .bestEffort) (hline : s.lineScript = lineRepliesOf ps ++ ls)
    (hdelay : s.delayScript = delayRepliesFor (eventsOf ps) ++ ds) : Scripted s 0 ps ls ds where
  seq := hseq.trans (if_neg (scanTrace_length_pos s).ne).symm
  err := (if_neg (scanTrace_length_pos s).ne).symm
  noReset := hreset
  events := hevents
  goes := hgoes
  line := hline
  delay := hdelay

/-- The trace was performed to its end. -/
structure Completed (s : State) (ps : List AnsweredEvent) (ls : List LineReply) (ds : List DelayReply) (t : State) :
    Prop where
  frame : RunFrame s t
  seq : t.seq = .idle
  err : t.err = .none
  line : t.lineScript = ls
  delay : t.delayScript = ds
  record : t.record.reverse = s.record.reverse ++ recordOf ps
  outstanding : t.outstanding = none

/-- An OUTPUT whose every request is answered, and no answer ends it, completes in as many steps as it has events. -/
theorem exists_completed {s : State} {ps : List AnsweredEvent} {ls : List LineReply} {ds : List DelayReply}
    (h : Scripted s 0 ps ls ds) (hall : eventsOf ps = scanTrace s) :
    ∃ t, runFor (scanTrace s).length s = .next t ∧ Completed s ps ls ds t := by
  obtain ⟨t, hrun, ht⟩ := h.exists_run
  have hlen : ps.length = (scanTrace s).length := by rw [← hall, length_eventsOf]
  have hend : 0 + ps.length = (scanTrace s).length := (Nat.zero_add _).trans hlen
  have hne : ps ≠ [] := List.ne_nil_of_length_pos (hlen ▸ scanTrace_length_pos s)
  refine ⟨t, hlen ▸ hrun, ht.frame, ?_, ?_, ht.line, ht.delay, by simp [ht.record], ?_⟩
  · exact ht.seq.trans (if_pos hend)
  · exact ht.err.trans (if_pos hend)
  · exact ht.outstanding.trans (if_neg hne)

theorem exists_completed_of_ok {s : State} {ls : List LineReply} {ds : List DelayReply}
    (hseq : s.seq = .running 0) (hreset : s.noReset = true)
    (hline : s.lineScript = lineRepliesFor .ok (scanTrace s) ++ ls)
    (hdelay : s.delayScript = delayRepliesFor (scanTrace s) ++ ds) :
    ∃ t, runFor (scanTrace s).length s = .next t ∧ Completed s (answerAll .ok (scanTrace s)) ls ds t := by
  refine exists_completed (scripted_of_start hseq hreset ?_ ?_ ?_ ?_) (eventsOf_answerAll ..)
  · rw [eventsOf_answerAll]
  · exact fun p hp => .inl (snd_of_mem_answerAll hp)
  · rwa [lineRepliesOf_answerAll]
  · rwa [eventsOf_answerAll]

/-- Settles O54: with every answer `ok` the OUTPUT completes (`exists_completed_of_ok`), the block's registers as they
were (`RunFrame`). -/
theorem outputIssuesItsWholeTrace : Obligations.OutputIssuesItsWholeTrace := by
  intro s ls ds _ hseq hreset hline hdelay
  obtain ⟨t, hrun, hframe, hidle, herr, hls, hds, hrecord, hout⟩ := exists_completed_of_ok hseq hreset hline hdelay
  rw [RunFrame, hidle, herr, hls, hds, hout] at hframe
  exact ⟨t, hrun, by rw [hrecord, recordOf_answerAll], hframe⟩

/-- Answers to the drives of a list, given to its events in order. -/
theorem exists_answeredEvents {es : List Event} {answers : List Answer}
    (h : answers.length = (es.filter Event.isDrive).length) :
    ∃ ps, eventsOf ps = es ∧ lineRepliesOf ps = answers.map some := by
  induction es generalizing answers with
  | nil =>
    obtain rfl : answers = [] := List.eq_nil_of_length_eq_zero h
    exact ⟨[], rfl, rfl⟩
  | cons e es ih =>
    cases e with
    | drive l v =>
      obtain ⟨answer, rest, rfl⟩ := List.exists_cons_of_length_pos (l := answers) (by simp [h])
      obtain ⟨ps, hevents, hreplies⟩ := ih (answers := rest) (by simpa [List.filter_cons] using h)
      exact ⟨(.drive l v, answer) :: ps, congrArg (_ :: ·) hevents, congrArg (some answer :: ·) hreplies⟩
    | wait us =>
      obtain ⟨ps, hevents, hreplies⟩ := ih (answers := answers) (by simpa using h)
      exact ⟨(.wait us, .ok) :: ps, congrArg (_ :: ·) hevents, hreplies⟩

/-- Settles O56: under BestEffort no answer ends the OUTPUT, so it completes (`exists_completed`) with each event and
its answer on record. -/
theorem bestEffortAlwaysCompletes : Obligations.BestEffortAlwaysCompletes := by
  intro s answers ls ds hi hseq hreset hp hlen hline hdelay
  obtain ⟨ps, hevents, hreplies⟩ := exists_answeredEvents hlen
  obtain ⟨_, _, hf⟩ := hi.seq 0 hseq
  obtain ⟨t, hrun, hframe, hidle, herr, hls, hds, hrecord, hout⟩ := exists_completed
    (scripted_of_start hseq hreset (hevents ▸ List.prefix_rfl) (fun _ _ => .inr hp) (hreplies ▸ hline)
      (hevents ▸ hdelay)) hevents
  refine ⟨t, hrun, hidle, herr, (congrArg State.faulted hframe).trans hf, hls, hds, hout, recordOf ps, hrecord, ?_,
    fun k e he => ?_⟩
  · rw [← hevents, length_eventsOf, recordOf, List.length_map]
  · rw [← hevents, eventsOf, List.getElem?_map, Option.map_eq_some_iff] at he
    obtain ⟨p, hp, rfl⟩ := he
    exact ⟨p.2, by simp [recordOf, hp]⟩

theorem runFor_succ_of_runFor {n : Nat} {s t u : State} (hrun : runFor n s = .next t) (hstep : step t = .next u) :
    runFor (n + 1) s = .next u := by
  induction n generalizing s with
  | zero =>
    cases hrun
    rw [runFor_succ hstep, runFor_zero]
  | succ n ih =>
    obtain ⟨v, hv, hrest⟩ := runFor_succ_cases hrun
    rw [runFor_succ hv, ih hrest]

/-- Settles O55: the events before the failing one are performed, and the next step is the LINE_FAIL entry
(`step_of_fail`). -/
theorem outputStopsAtTheFirstFailure : Obligations.OutputStopsAtTheFirstFailure := by
  intro s k l v ls ds hi hseq hreset hp he hline hdelay
  obtain ⟨_, hc, hf⟩ := hi.seq 0 hseq
  obtain ⟨hk, _⟩ := List.getElem?_eq_some_iff.mp he
  have hscript : Scripted s 0 (answerAll .ok ((scanTrace s).take k)) (some .fail :: ls) ds := by
    refine scripted_of_start hseq hreset ?_ ?_ ?_ ?_
    · rw [eventsOf_answerAll]
      exact List.take_prefix k _
    · exact fun p hp => .inl (snd_of_mem_answerAll hp)
    · rwa [lineRepliesOf_answerAll]
    · rwa [eventsOf_answerAll]
  have hlen : (answerAll .ok ((scanTrace s).take k)).length = k := by simp [answerAll, hk.le]
  obtain ⟨t, hrun, ht⟩ := hscript.exists_run
  rw [hlen] at hrun
  have htseq : t.seq = .running k := by rw [ht.seq, hlen, Nat.zero_add, State.seqAt, if_neg hk.ne]
  have hcfg : t.cfg = s.cfg := (congrArg State.cfg ht.frame).trans rfl
  have hstep := step_of_fail (rst_of_noReset ht.noReset) htseq (hcfg ▸ hp) (ht.frame.scanTrace_eq ▸ he)
    (by rw [State.lineReply, ht.line])
  refine ⟨_, runFor_succ_of_runFor hrun hstep, ?_, rfl, rfl, rfl, ?_, ?_, ?_, ?_, ?_⟩
  · simp [ht.record]
  · simpa using (congrArg State.faulted ht.frame).trans hf
  · simpa using (congrArg State.configured ht.frame).trans hc
  · simpa using (congrArg State.fb ht.frame).trans rfl
  · simp [ht.line]
  · simpa using ht.delay

end Sys2Proof.Machine
end

section
/-! The levels after an OUTPUT (R152): each line was driven last in the last column, the last row tail or the final
blank. -/

namespace Sys2Proof.Machine

theorem flatMap_range_succ {α : Type} (f : Nat → List α) (n : Nat) :
    (List.range (n + 1)).flatMap f = (List.range n).flatMap f ++ f n := by
  simp [List.range_succ]

/-- The events from the last column on. -/
def lastEvents (s : State) : List Event :=
  columnEvents s (threshold s.stepReg (s.countReg.toNat - 1)) (s.cfg.variant.rows - 1) 63 ++
    rowTail s.cfg (s.cfg.variant.rows - 1) ++ [.drive .oe true]

theorem lastColumn_suffix (s : State) (t r : Nat) : columnEvents s t r 63 <:+ rowShift s t r :=
  ⟨_, (flatMap_range_succ _ 63).symm⟩

theorem lastRow_suffix (s : State) (i : Nat) :
    rowShift s (threshold s.stepReg i) (s.cfg.variant.rows - 1) ++ rowTail s.cfg (s.cfg.variant.rows - 1) <:+
      subFrame s i := by
  rw [subFrame, ← Nat.sub_add_cancel (rows_pos s.cfg.variant), flatMap_range_succ]
  exact List.suffix_append ..

theorem lastSubFrame_suffix {s : State} (hcount : 0 < s.countReg.toNat) :
    subFrame s (s.countReg.toNat - 1) ++ [.drive .oe true] <:+ scanTrace s := by
  rw [scanTrace, ← Nat.sub_add_cancel hcount, flatMap_range_succ, List.append_assoc]
  exact List.suffix_append ..

theorem lastEvents_suffix {s : State} (hcount : 0 < s.countReg.toNat) : lastEvents s <:+ scanTrace s := by
  have happend {es es' : List Event} (h : es <:+ es') (rest : List Event) : es ++ rest <:+ es' ++ rest := by
    obtain ⟨before, rfl⟩ := h
    exact ⟨before, (List.append_assoc ..).symm⟩
  exact (happend ((happend (lastColumn_suffix ..) _).trans (lastRow_suffix ..)) _).trans (lastSubFrame_suffix hcount)

/-- The level of a line that an OUTPUT left is read off its last events, the newest first. -/
theorem Completed.lineLevel_eq {s t : State} {ls : List LineReply} {ds : List DelayReply}
    (h : Completed s (answerAll .ok (scanTrace s)) ls ds t) (hcount : 0 < s.countReg.toNat) :
    ∃ record, ∀ l, t.lineLevel l = levelIn l (((lastEvents s).map (Event.answered .ok)).reverse ++ record) := by
  obtain ⟨before, hbefore⟩ := lastEvents_suffix hcount
  refine ⟨(before.map (Event.answered .ok)).reverse ++ s.record, fun l => ?_⟩
  rw [State.lineLevel, ← List.reverse_reverse t.record, h.record, recordOf_answerAll, ← hbefore]
  simp

theorem testBit_last_row {v : Variant} {j : Nat} (h : j < v.naddr) : (v.rows - 1).testBit j = true := by
  rw [rows_eq_two_pow_naddr, Nat.testBit_two_pow_sub_one]
  exact decide_eq_true h

/-- The levels after a column, every answer being `ok`: those it drove, and CLK low after its pulse. -/
theorem levelIn_column_clk (s : State) (t r c : Nat) (record : List Issued) :
    levelIn .clk (((columnEvents s t r c).map (Event.answered .ok)).reverse ++ record) = false := rfl

theorem levelIn_column_color (s : State) (t r c : Nat) (record : List Issued) {ch : Nat} (h : ch < 6) :
    levelIn (colorLine ch) (((columnEvents s t r c).map (Event.answered .ok)).reverse ++ record) =
      lvl (s.channel r c ch) t := by
  interval_cases ch <;> rfl

/-- The levels after a row tail, every answer being `ok`: unblanked, LAT high, the row's number on the address lines,
and the colour lines and CLK as they were. -/
theorem levelIn_rowTail (cfg : Config) (r : Nat) (record : List Issued) (l : Line) :
    levelIn l (((rowTail cfg r).map (Event.answered .ok)).reverse ++ record) =
      match l with
      | .oe => false
      | .lat => true
      | .a => r.testBit 0
      | .b => r.testBit 1
      | .c => r.testBit 2
      | .d => r.testBit 3
      | .f => if cfg.variant = .double then r.testBit 4 else levelIn .f record
      | l => levelIn l record := by
  rw [rowTail]
  cases cfg.variant <;> cases l <;> rfl

/-- The levels after the last events: those of the last row tail on the last column, but for the final blank. -/
theorem levelIn_lastEvents (s : State) (record : List Issued) :
    let level l := levelIn l (((lastEvents s).map (Event.answered .ok)).reverse ++ record)
    level .oe = true ∧ level .lat = true ∧ level .clk = false ∧ level .a = true ∧ level .b = true ∧ level .c = true ∧
      level .d = true ∧ (s.cfg.variant = .double → level .f = true) ∧
      ∀ ch, ch < 6 → level (colorLine ch) =
        lvl (s.channel (s.cfg.variant.rows - 1) 63 ch) (threshold s.stepReg (s.countReg.toNat - 1)) := by
  have hnaddr : 4 ≤ s.cfg.variant.naddr := by cases s.cfg.variant <;> decide
  have hbit {j : Nat} (hj : j < 4) := testBit_last_row (hj.trans_le hnaddr)
  simp only [lastEvents, List.map_append, List.reverse_append, List.append_assoc]
  refine ⟨rfl, levelIn_rowTail .., (levelIn_rowTail ..).trans (levelIn_column_clk ..),
    (levelIn_rowTail ..).trans (hbit (by decide)), (levelIn_rowTail ..).trans (hbit (by decide)),
    (levelIn_rowTail ..).trans (hbit (by decide)), (levelIn_rowTail ..).trans (hbit (by decide)),
    fun hv => ?_, fun ch hch => ?_⟩
  · refine (levelIn_rowTail ..).trans ((if_pos hv).trans (testBit_last_row ?_))
    rw [hv]
    decide
  · refine Eq.trans ?_ (levelIn_column_color s _ _ 63 record hch)
    interval_cases ch <;> exact levelIn_rowTail ..

/-- Settles O57: the OUTPUT completes (`exists_completed_of_ok`), and its last events give the levels
(`levelIn_lastEvents`). -/
theorem lineLevelsAfterOutput : Obligations.LineLevelsAfterOutput := by
  intro s ls ds hi hseq hreset hline hdelay
  obtain ⟨_, hc, _⟩ := hi.seq 0 hseq
  obtain ⟨h1, h8, _, hcount⟩ := hi.config hc
  obtain ⟨t, hrun, ht⟩ := exists_completed_of_ok hseq hreset hline hdelay
  obtain ⟨record, hlevel⟩ := ht.lineLevel_eq (hcount ▸ countOf_pos h1 h8)
  refine ⟨t, hrun, ?_⟩
  simp only [hlevel]
  exact levelIn_lastEvents s record

end Sys2Proof.Machine
end
